-- ==== Sys2Proof/Word.lean ====
section
/-! DEFINITION. The words of the machine: bytes, 32-bit register values, key-schedule words and the byte registers' shapes (spec/00_scope.md R14, R17, R18). -/

namespace Sys2Proof

/-- A byte: 8 bits, unsigned (00_scope.md R14). -/
abbrev Byte := BitVec 8

/-- The value of one 32-bit register transaction (00_scope.md R12). -/
abbrev Word := BitVec 32

/-- A key-schedule word: a sequence of 4 bytes, not a number (00_scope.md R18, 20_memory.md R51). -/
abbrev KWord := Vector Byte 4

/-- The 16-byte State (00_scope.md R17). -/
abbrev Block := Vector Byte 16

/-- The raw key register, 32 bytes (10_state.md R28). -/
abbrev KeyBytes := Vector Byte 32

/-- The expanded-key storage, 240 bytes (10_state.md R30). -/
abbrev ExpandedKey := Vector Byte 240

end Sys2Proof
end

