-- ==== Sys2Proof/Syntax.lean ====
section
/-! DEFINITION. The ten commands of spec/opcode_table.json, one constructor per row (spec/30_encoding.md R69). -/

namespace Sys2Proof

/-- A command of the core (30_encoding.md R69). ADDROUNDKEY's round index is the only operand a command carries
(R68). Every other operand is a register no field names. -/
inductive Instr where
  | keyExp
  | encrypt
  | decrypt
  | subBytes
  | invSubBytes
  | shiftRows
  | invShiftRows
  | mixColumns
  | invMixColumns
  | addRoundKey (round : Nat)
  deriving DecidableEq, Repr

end Sys2Proof
end

