-- ==== Sys2Proof/Config.lean ====
section
/-! DEFINITION. What the spec leaves to the implementation: the window's bus address, the command latencies, and the free draw ANY32 (spec/00_scope.md R13, spec/20_memory.md R57). None has a value a proof could use. -/

namespace Sys2Proof.Config

/-- `BASE`, the bus address of offset 0x000: an open parameter (00_scope.md R13). No rule depends on it (log entry 8). -/
opaque base : Nat

/-- The bus address of a window offset: "Offset `off` is at bus address `BASE + off`" (20_memory.md R48). -/
def busAddress (off : BitVec 9) : Nat := base + off.toNat

/-- The four latency parameters of 00_scope.md R13. -/
inductive Latency where
  | keyExp
  | encrypt
  | decrypt
  | prim
  deriving DecidableEq, Repr

/-- How many cycles beyond the first a command stays busy: open, so each latency is "a positive integer and otherwise
unconstrained" (00_scope.md R13). -/
opaque extraCycles : Latency → Nat

/-- `LAT_KEYEXP`, `LAT_ENCRYPT`, `LAT_DECRYPT`, `LAT_PRIM` (00_scope.md R13). No step of the model reads one: "the model
has no time" (70_reset_and_hazards.md R140, log entry 8). -/
def cycles (l : Latency) : Nat := extraCycles l + 1

/-- Which latency a command has (70_reset_and_hazards.md R140). -/
def latencyOf : Instr → Latency
  | .keyExp => .keyExp
  | .encrypt => .encrypt
  | .decrypt => .decrypt
  | .subBytes => .prim
  | .invSubBytes => .prim
  | .shiftRows => .prim
  | .invShiftRows => .prim
  | .mixColumns => .prim
  | .invMixColumns => .prim
  | .addRoundKey _ => .prim

/-- `ANY32`: the n-th free 32-bit draw (20_memory.md R57, R60). It has no body, so nothing can be proved of its value
(log entry 5). -/
opaque any32 : Nat → Word

end Sys2Proof.Config
end

