-- ==== Sys2Proof/WellFormed.lean ====
section
/-! DEFINITION. Which commands have an encoding: the round index fits the 4-bit ROUND field (spec/30_encoding.md R68). -/

namespace Sys2Proof

/-- The command has a CMD word: "an unsigned round index 0 to 15" (30_encoding.md R68). A round above NR is still
well-formed: it decodes and fails acceptance (R72). -/
def Instr.wf : Instr → Bool
  | .keyExp => true
  | .encrypt => true
  | .decrypt => true
  | .subBytes => true
  | .invSubBytes => true
  | .shiftRows => true
  | .invShiftRows => true
  | .mixColumns => true
  | .invMixColumns => true
  | .addRoundKey round => decide (round < 16)

end Sys2Proof
end

