-- ==== Sys2Proof/Decode.lean ====
section
/-! DEFINITION. The CMD32 decoder, total on every 32-bit value, the byte lanes it reads, and the encoder (spec/30_encoding.md R67 to R73, spec/20_memory.md R52). -/

namespace Sys2Proof

/-- `LE32(b0, b1, b2, b3) = b0 | b1 << 8 | b2 << 16 | b3 << 24` (20_memory.md R57). -/
def le32 (b0 b1 b2 b3 : Byte) : Word :=
  b0.setWidth 32 ||| (b1.setWidth 32 <<< 8) ||| (b2.setWidth 32 <<< 16) ||| (b3.setWidth 32 <<< 24)

/-- Byte lane k of a 32-bit value: bits `[8k+7 : 8k]` (20_memory.md R52). -/
def lane (v : Word) (k : Nat) : Byte := v.extractLsb' (8 * k) 8

/-- Why no command is decoded. -/
inductive DecodeError where
  /-- The value is Illegal by 30_encoding.md R70. -/
  | illegal
  /-- The bytes are not the four bytes of one CMD word (30_encoding.md R67: one length, 32 bits). -/
  | wrongLength
  deriving DecidableEq, Repr

/-- The nine operand-free opcodes of 30_encoding.md R69. -/
def opcodes : List (BitVec 4 × Instr) :=
  [(0x1, .keyExp), (0x2, .encrypt), (0x3, .decrypt),
   (0x8, .subBytes), (0x9, .invSubBytes), (0xA, .shiftRows), (0xB, .invShiftRows),
   (0xC, .mixColumns), (0xD, .invMixColumns)]

/-- The decoder of 30_encoding.md R70, check by check. -/
def decode (v : Word) : Except DecodeError Instr :=
  let op : BitVec 4 := v.extractLsb' 0 4
  let round : BitVec 4 := v.extractLsb' 8 4
  if v.extractLsb' 12 20 ≠ 0 ∨ v.extractLsb' 4 4 ≠ 0 then .error .illegal
  else if op = 0xE then .ok (.addRoundKey round.toNat)
  else if round ≠ 0 then .error .illegal
  else
    match opcodes.lookup op with
    | some i => .ok i
    | none => .error .illegal

/-- The command of a CMD word's bytes in lane order, lowest offset first (20_memory.md R52). -/
def decodeBytes : List Byte → Except DecodeError Instr
  | [b0, b1, b2, b3] => decode (le32 b0 b1 b2 b3)
  | _ => .error .wrongLength

/-- The OP field of a command (30_encoding.md R69). -/
def opcode : Instr → BitVec 4
  | .keyExp => 0x1
  | .encrypt => 0x2
  | .decrypt => 0x3
  | .subBytes => 0x8
  | .invSubBytes => 0x9
  | .shiftRows => 0xA
  | .invShiftRows => 0xB
  | .mixColumns => 0xC
  | .invMixColumns => 0xD
  | .addRoundKey _ => 0xE

/-- The ROUND field of a command: 0 for every opcode but ADDROUNDKEY (30_encoding.md R67). DESIGN CHOICE (log entry 18): a
round above 15, which has no encoding (R68) and which `Instr.wf` refuses, leaves its low four bits here. -/
def roundField : Instr → BitVec 4
  | .addRoundKey round => BitVec.ofNat 4 round
  | .keyExp => 0
  | .encrypt => 0
  | .decrypt => 0
  | .subBytes => 0
  | .invSubBytes => 0
  | .shiftRows => 0
  | .invShiftRows => 0
  | .mixColumns => 0
  | .invMixColumns => 0

/-- The CMD word of a command: OP in [3:0], ROUND in [11:8], RES0 and RES1 zero (30_encoding.md R67). -/
def encode (i : Instr) : Word :=
  (opcode i).setWidth 32 ||| ((roundField i).setWidth 32 <<< 8)

/-- What the decoder reads from an instruction word numbered as opcode_table.json numbers it. Bits above `nbits` are 0.
The word goes to the decoder as its four bytes in lane order. A word wider than a command's 32 bits is no command
(30_encoding.md R67). -/
def decodeTableWord (nbits w : Nat) : Option Instr :=
  let v := w % 2 ^ nbits
  if 2 ^ 32 ≤ v then none
  else
    let x := BitVec.ofNat 32 v
    (decodeBytes [lane x 0, lane x 1, lane x 2, lane x 3]).toOption

end Sys2Proof
end

