-- ==== Sys2Proof/Machine/State.lean ====
section
/-! DEFINITION. The state of the machine, its faults and refusals, and the state after reset (spec/10_state.md R22 to R46, spec/70_reset_and_hazards.md R131). -/

namespace Sys2Proof.Machine

/-- The architectural state of the core: exactly the tuple of 10_state.md R22. -/
structure Regs where
  /-- CTRL.IE, the interrupt enable (10_state.md R32). -/
  ie : Bool
  /-- STATUS.BUSY, a command is in flight (10_state.md R34). -/
  busy : Bool
  /-- STATUS.DONE, the last command has finished (10_state.md R35). -/
  done : Bool
  /-- STATUS.KV, a valid expanded key is held (10_state.md R36). -/
  kv : Bool
  /-- STATUS.OVR, a write was dropped while busy (10_state.md R37). -/
  ovr : Bool
  /-- STATUS.ERR, the error code of the last command (10_state.md R38, 60_exceptions.md R118). -/
  err : BitVec 4
  /-- NK of the held key, 0 when none (10_state.md R31). -/
  nk : BitVec 4
  /-- NR of the held key, 0 when none (10_state.md R31). -/
  nr : BitVec 4
  /-- KEYLEN, the requested key length in bytes (10_state.md R29). -/
  keyLen : BitVec 8
  /-- KEY[0..31], the raw cipher key (10_state.md R28). -/
  key : KeyBytes
  /-- STATE[0..15], the State (10_state.md R27). -/
  block : Block
  /-- W[0..239], the expanded-key storage (10_state.md R30). -/
  w : ExpandedKey
  /-- PENDING, the accepted command in flight (10_state.md R42). -/
  pending : Option Instr
  deriving DecidableEq, Repr

/-- A register transaction as the host presents it: the `req_*` signals of 20_memory.md R47. -/
structure Request where
  /-- req_write: true for a write, false for a read. -/
  write : Bool
  /-- req_off, the byte offset in the window. -/
  off : BitVec 9
  /-- req_size: 0 = 1 byte, 1 = 2 bytes, 2 = 4 bytes, 3 reserved. -/
  size : BitVec 2
  /-- req_wdata, the write data. -/
  wdata : Word
  deriving DecidableEq, Repr

/-- The record of one host step: the `req_*` and the `rsp_*` fields (20_memory.md R47). -/
structure Transaction where
  req : Request
  /-- rsp_rdata of a read. A write has none: the spec gives it no read data (log entry 9). -/
  rdata : Option Word
  /-- rsp_error: the transaction was refused (20_memory.md R56). -/
  error : Bool
  deriving DecidableEq, Repr

/-- One step of the interleaving (20_memory.md R63), or an edge of rst (70_reset_and_hazards.md R131). -/
inductive Event where
  /-- The host presents a transaction. -/
  | host (q : Request)
  /-- The core makes its completion step, if enabled. -/
  | complete
  /-- rst is asserted. -/
  | assertRst
  /-- rst is released. -/
  | releaseRst
  deriving DecidableEq, Repr

/-- The agent whose step is being made (20_memory.md R61): the host, issuing a command, or the core, completing one. -/
inductive Agent where
  | host
  | core
  deriving DecidableEq, Repr

/-- The machine: the core's architectural state, and beside it what stands at its ports and the model's bookkeeping. -/
structure State where
  /-- The architectural state (10_state.md R22). -/
  core : Regs
  /-- The level of the rst signal (20_memory.md R47, log entry 4). -/
  rst : Bool
  /-- The steps still to come, oldest first: the interleaving the bus and the core's timing produce (20_memory.md R63,
  log entry 1). -/
  inputs : List Event
  /-- The agent whose step is being made (log entry 2). -/
  turn : Agent
  /-- The record of the latest host step (20_memory.md R47, log entry 9). -/
  last : Option Transaction
  /-- The host program's fault bit, never cleared (60_exceptions.md R121, log entry 6). -/
  hostFault : Bool
  /-- How many free values ANY32 have been drawn: the model's own field (20_memory.md R57, log entry 5). -/
  draws : Nat
  deriving DecidableEq, Repr

/-- Why a step stops with a fault. Each is raised only by a completion step in a state no run from reset reaches
(60_exceptions.md R122), and each is safe: the model stops where the spec gives no effect. -/
inductive Fault where
  /-- A pipeline would run in a state outside the invariant of 10_state.md R23 or with a W that is not as long as NR says.
  Raised by ENCRYPT and DECRYPT at completion (43_cipher_pipelines.md R113, 93_implementation_defined.md U6). Safe. -/
  | outsideInvariant
  /-- KEYEXP completes with a KEYLEN that `select` maps to InvalidKeyLength. Raised by KEYEXP at completion
  (41_key_schedule.md R85, R92, log entry 16). Safe. -/
  | keyLengthUnselectable
  /-- ADDROUNDKEY completes with a round whose round key does not exist. Raised by ADDROUNDKEY at completion
  (42_round_transforms.md R106, log entry 16). Safe. -/
  | noSuchRoundKey
  /-- The completion step finds BUSY = 1 and no PENDING command. Raised by the completion step
  (10_state.md R23, log entry 16). Safe. -/
  | nothingPending
  deriving DecidableEq, Repr

/-- Why a step is refused. -/
inductive Refusal where
  /-- The instruction has no meaning in this model. Raised by exec's refused arms, of which none is left. Safe. -/
  | notModelled (mnemonic : String)
  deriving DecidableEq, Repr

/-- The outcome of a step of this machine. -/
abbrev Result := Host.Outcome State Fault Refusal

/-- The reset value of every component (10_state.md R46): "all bits, bytes and fields 0, PENDING none". -/
def Regs.reset : Regs where
  ie := false
  busy := false
  done := false
  kv := false
  ovr := false
  err := 0
  nk := 0
  nr := 0
  keyLen := 0
  key := Vector.replicate 32 0
  block := Vector.replicate 16 0
  w := Vector.replicate 240 0
  pending := none

/-- The machine right after reset: the core at its reset values (70_reset_and_hazards.md R132), rst released, nothing
presented yet (log entry 17 for the fields beside the core). -/
def State.reset : State where
  core := Regs.reset
  rst := false
  inputs := []
  turn := .host
  last := none
  hostFault := false
  draws := 0

end Sys2Proof.Machine
end

