-- ==== Sys2Proof/Machine/Operands.lean ====
section
/-! DEFINITION. What a command or a transaction names: the registers of the window, the bytes of the byte registers, the round-count selector (spec/20_memory.md R49, R52, spec/41_key_schedule.md R85). -/

namespace Sys2Proof.Machine

/-- A register of the map of 20_memory.md R49. -/
inductive Reg where
  | ctrl
  | status
  | cmd
  | keyLen
  /-- STATE0 to STATE3. -/
  | state (m : Nat)
  /-- KEY0 to KEY7. -/
  | key (m : Nat)
  /-- RKEY0 to RKEY59. -/
  | rkey (i : Nat)
  deriving DecidableEq, Repr

/-- The register an offset lies in, none at a reserved offset (20_memory.md R49). -/
def regAt (off : BitVec 9) : Option Reg :=
  let o := off.toNat
  if o < 0x004 then some .ctrl
  else if o < 0x008 then some .status
  else if o < 0x00C then some .cmd
  else if o < 0x010 then some .keyLen
  else if o < 0x020 then some (.state ((o - 0x010) / 4))
  else if o < 0x040 then some (.key ((o - 0x020) / 4))
  else if o < 0x100 then none
  else if o < 0x1F0 then some (.rkey ((o - 0x100) / 4))
  else none

/-- The register is in the RKEY window, which no transaction may write (20_memory.md R49, R56). -/
def Reg.readOnly : Reg → Bool
  | .rkey _ => true
  | .ctrl => false
  | .status => false
  | .cmd => false
  | .keyLen => false
  | .state _ => false
  | .key _ => false

/-- Byte j of a byte register. Past its end there is no byte, and no rule asks for one. -/
def byteAt {n : Nat} (v : Vector Byte n) (j : Nat) : Byte := if h : j < n then v[j] else 0

/-- The byte register of length n whose byte j is `f j`. It is irreducible so that the elaborator never writes out the
bytes of a register it only compares: `byteAt_tabulate` (Laws/Bytes.lean) says all there is to it. -/
@[irreducible] def tabulate (n : Nat) (f : Nat → Byte) : Vector Byte n := Vector.ofFn fun j : Fin n => f j.val

/-- `LE32` of bytes 4m to 4m+3 of a byte register (20_memory.md R57). -/
def wordAt {n : Nat} (v : Vector Byte n) (m : Nat) : Word :=
  le32 (byteAt v (4 * m)) (byteAt v (4 * m + 1)) (byteAt v (4 * m + 2)) (byteAt v (4 * m + 3))

/-- Bytes 4m to 4m+3 replaced by the lanes of x, every other byte kept (20_memory.md R58). -/
def setWordAt {n : Nat} (v : Vector Byte n) (m : Nat) (x : Word) : Vector Byte n :=
  tabulate n fun j => if j / 4 = m then lane x (j % 4) else byteAt v j

/-- The round-count selector: (Nk, Nr) of a key length, none for InvalidKeyLength (41_key_schedule.md R85). -/
def selectRounds (len : BitVec 8) : Option (Nat × Nat) :=
  if len = 16 then some (4, 10)
  else if len = 24 then some (6, 12)
  else if len = 32 then some (8, 14)
  else none

/-- `(NK, NR)` is one of (4, 10), (6, 12), (8, 14) (10_state.md R23). -/
def legalRounds (nk nr : BitVec 4) : Bool :=
  (nk == 4 && nr == 10) || (nk == 6 && nr == 12) || (nk == 8 && nr == 14)

/-- How many bytes of W a key of `nr` rounds fills: `(NR + 1) × 16` (10_state.md R30). -/
def expandedBytes (nr : BitVec 4) : Nat := (nr.toNat + 1) * 16

/-- The bytes of W past the held key are 0x00 (10_state.md R30). -/
def zeroTail (r : Regs) : Bool :=
  (List.range 240).all fun j => decide (j < expandedBytes r.nr) || byteAt r.w j == 0

end Sys2Proof.Machine
end

