-- ==== Sys2Proof/Machine/Flags.lean ====
section
/-! DEFINITION. The STATUS and CTRL registers as the host sees them, the error codes, the interrupt output and every change of a status flag (spec/10_state.md R32 to R40, R44, spec/60_exceptions.md R118 to R120, R124). -/

namespace Sys2Proof.Machine

/-- The errors of 60_exceptions.md R118. -/
inductive CmdError where
  | invalidKeyLength
  | noKey
  | illegalCommand
  | roundRange
  deriving DecidableEq, Repr

/-- The value of STATUS.ERR for an error (60_exceptions.md R118). -/
def CmdError.code : CmdError → BitVec 4
  | .invalidKeyLength => 1
  | .noKey => 2
  | .illegalCommand => 3
  | .roundRange => 4

/-- One flag as a 32-bit value. -/
def flagWord (b : Bool) : Word := (BitVec.ofBool b).setWidth 32

/-- The value a read of STATUS returns (20_memory.md R57, layout of 10_state.md R33). -/
def statusWord (r : Regs) : Word :=
  flagWord r.busy ||| (flagWord r.done <<< 1) ||| (flagWord r.kv <<< 2) ||| (flagWord r.ovr <<< 3)
    ||| (r.err.setWidth 32 <<< 8) ||| (r.nr.setWidth 32 <<< 16) ||| (r.nk.setWidth 32 <<< 20)

/-- The value a read of CTRL returns (10_state.md R32). -/
def ctrlWord (r : Regs) : Word := flagWord r.ie

/-- The interrupt output: `irq = CTRL.IE and STATUS.DONE` (10_state.md R44, 60_exceptions.md R124). -/
def irq (r : Regs) : Bool := r.ie && r.done

/-- A write of v to CTRL: bit 0 is IE, the rest is ignored (10_state.md R32). -/
def writeCtrl (v : Word) (r : Regs) : Regs := { r with ie := v.getLsbD 0 }

/-- A write of v to STATUS: bit 1 clears DONE and ERR, bit 3 clears OVR (10_state.md R40). -/
def writeStatus (v : Word) (r : Regs) : Regs :=
  { r with
    done := if v.getLsbD 1 then false else r.done
    err := if v.getLsbD 1 then 0 else r.err
    ovr := if v.getLsbD 3 then false else r.ovr }

/-- A write dropped while busy sets OVR and changes nothing else (70_reset_and_hazards.md R135). -/
def markDropped (r : Regs) : Regs := { r with ovr := true }

/-- The flags of an error: `STATUS.DONE <- 1; STATUS.ERR <- code` (60_exceptions.md R120). -/
def markError (e : CmdError) (r : Regs) : Regs := { r with done := true, err := e.code }

/-- The last four lines of `issue`: PENDING <- c, BUSY <- 1, DONE <- 0, ERR <- 0 (60_exceptions.md R119). -/
def markAccepted (i : Instr) (r : Regs) : Regs :=
  { r with pending := some i, busy := true, done := false, err := 0 }

/-- The last three lines of the completion step: PENDING <- none, BUSY <- 0, DONE <- 1, "STATUS.ERR stays 0"
(43_cipher_pipelines.md R117). -/
def markCompleted (r : Regs) : Regs := { r with pending := none, busy := false, done := true }

end Sys2Proof.Machine
end

