-- ==== Sys2Proof/Machine/Ops.lean ====
section
/-! DEFINITION. The operations every step shares: reading and writing a register, raising a command error, issuing and completing a command, refusing a transaction, reset (spec/20_memory.md R56 to R58, spec/60_exceptions.md R119 to R121, spec/43_cipher_pipelines.md R117, spec/70_reset_and_hazards.md R131). -/

namespace Sys2Proof.Machine

/-- The invariant of 10_state.md R23, with the zero tail of W of R30: the states a pipeline may run in
(43_cipher_pipelines.md R113). -/
def Regs.wf (r : Regs) : Bool :=
  (r.busy == r.pending.isSome)
    && (!r.busy || (!r.done && r.err == 0))
    && (if r.kv then legalRounds r.nk r.nr && zeroTail r else r.nk == 0 && r.nr == 0)
    && decide (r.err.toNat ≤ 4)

/-- The machine with its architectural state replaced. -/
def State.withCore (s : State) (r : Regs) : State := { s with core := r }

/-- The machine at a step of the given agent. -/
def State.withTurn (s : State) (a : Agent) : State := { s with turn := a }

/-- The machine with the first event of its schedule taken. -/
def State.withInputs (s : State) (es : List Event) : State := { s with inputs := es }

/-- The host's transaction answered: its record kept (20_memory.md R47). -/
def State.answer (s : State) (q : Request) (rdata : Option Word) : State :=
  { s with last := some { req := q, rdata := rdata, error := false } }

/-- A refused transaction: `rsp_error = 1`, a refused read returns 0, no state of the core changes, and the program's
fault bit is set (20_memory.md R56, 60_exceptions.md R121). -/
def State.refuse (s : State) (q : Request) : State :=
  { s with
    last := some { req := q, rdata := if q.write then none else some 0, error := true }
    hostFault := true }

/-- One more free value drawn (20_memory.md R60). -/
def State.drawn (s : State) : State := { s with draws := s.draws + 1 }

/-- Reset: rst is asserted and every component takes its reset value (70_reset_and_hazards.md R131). -/
def State.assertRst (s : State) : State := { s with core := Regs.reset, rst := true }

/-- rst is released (log entry 4). -/
def State.releaseRst (s : State) : State := { s with rst := false }

/-- `raise CmdError(code)`: the one way the core reports an error. It takes no trap, saves nothing and changes no mode
(60_exceptions.md R120, R125). The host takes the record back by `writeStatus`. There is no other return. -/
def raiseCmdError (e : CmdError) (s : State) : State := s.withCore (markError e s.core)

/-- The acceptance check of a command that has none. -/
def checkNone (_ : Regs) : Option CmdError := none

/-- KEYEXP's acceptance check (60_exceptions.md R119, third test). -/
def checkKeyLength (r : Regs) : Option CmdError :=
  if (selectRounds r.keyLen).isNone then some .invalidKeyLength else none

/-- The acceptance check of the commands that read W (60_exceptions.md R119, fourth test). -/
def checkKeyHeld (r : Regs) : Option CmdError := if r.kv then none else some .noKey

/-- ADDROUNDKEY's acceptance checks, NO_KEY before ROUND_RANGE (60_exceptions.md R119, R123). -/
def checkRound (n : Nat) (r : Regs) : Option CmdError :=
  match checkKeyHeld r with
  | some e => some e
  | none => if r.nr.toNat < n then some .roundRange else none

/-- `issue` of a decoded command (60_exceptions.md R119): dropped while busy, else refused by its check, else accepted. -/
def issue (i : Instr) (check : Regs → Option CmdError) (s : State) : State :=
  if s.core.busy then s.withCore (markDropped s.core)
  else
    match check s.core with
    | some e => raiseCmdError e s
    | none => s.withCore (markAccepted i s.core)

/-- A value that is no command: dropped while busy, else ILLEGAL_COMMAND (60_exceptions.md R119, 30_encoding.md R71). -/
def issueIllegal (s : State) : State :=
  if s.core.busy then s.withCore (markDropped s.core) else raiseCmdError .illegalCommand s

/-- A command's part of the completion step (43_cipher_pipelines.md R117): its effect, then PENDING, BUSY and DONE. -/
def complete (effect : Regs → Except Fault Regs) (s : State) : Result :=
  match effect s.core with
  | .ok r => .next (s.withCore (markCompleted r))
  | .error f => .fault f

/-- A command at either of its two moments: the host's CMD write issues it, the core's completion step applies it. -/
def runCommand (i : Instr) (check : Regs → Option CmdError) (effect : Regs → Except Fault Regs) (s : State) : Result :=
  match s.turn with
  | .host => .next (issue i check s)
  | .core => complete effect s

/-- The value of a register that is no free draw (20_memory.md R57). -/
def regValue (r : Regs) : Reg → Word
  | .ctrl => ctrlWord r
  | .status => statusWord r
  | .cmd => 0
  | .keyLen => r.keyLen.setWidth 32
  | .state m => wordAt r.block m
  | .key m => wordAt r.key m
  | .rkey i => wordAt r.w i

/-- A read of this register now returns ANY32: STATE while busy, RKEY while a KEYEXP is in flight (20_memory.md R57, R60). -/
def readsFree (r : Regs) : Reg → Bool
  | .state _ => r.busy
  | .rkey _ => r.busy && r.pending == some .keyExp
  | .ctrl => false
  | .status => false
  | .cmd => false
  | .keyLen => false
  | .key _ => false

/-- `MemRead` of an accepted read (20_memory.md R57): no side effect on any state of the core. -/
def readReg (q : Request) (g : Reg) (s : State) : State :=
  if readsFree s.core g then (s.answer q (some (Config.any32 s.draws))).drawn
  else s.answer q (some (regValue s.core g))

/-- The write of a register that a busy core drops (20_memory.md R58, 70_reset_and_hazards.md R135). -/
def writeUnlessBusy (f : Regs → Regs) (r : Regs) : Regs := if r.busy then markDropped r else f r

/-- KEYLEN takes bits [7:0] (20_memory.md R58). -/
def setKeyLen (v : Word) (r : Regs) : Regs := { r with keyLen := v.setWidth 8 }

/-- STATEm takes the four lanes (20_memory.md R58). -/
def setBlockWord (m : Nat) (v : Word) (r : Regs) : Regs := { r with block := setWordAt r.block m v }

/-- KEYm takes the four lanes (20_memory.md R58). -/
def setKeyWord (m : Nat) (v : Word) (r : Regs) : Regs := { r with key := setWordAt r.key m v }

/-- `MemWrite` of every register but CMD (20_memory.md R58). CMD holds no state of its own (10_state.md R41), and a write
to RKEY never gets here (20_memory.md R56). -/
def writeReg (g : Reg) (v : Word) (r : Regs) : Regs :=
  match g with
  | .ctrl => writeCtrl v r
  | .status => writeStatus v r
  | .keyLen => writeUnlessBusy (setKeyLen v) r
  | .state m => writeUnlessBusy (setBlockWord m v) r
  | .key m => writeUnlessBusy (setKeyWord m v) r
  | .cmd => r
  | .rkey _ => r

end Sys2Proof.Machine
end

