-- ==== Sys2Proof/Machine/KeySchedule.lean ====
section
/-! DEFINITION. The key schedule and KEYEXP (spec/41_key_schedule.md R85 to R93). -/

namespace Sys2Proof.Machine

/-- `RotWord(w0, w1, w2, w3) = (w1, w2, w3, w0)` (41_key_schedule.md R86). -/
def rotWord (x : KWord) : KWord := #v[x[1], x[2], x[3], x[0]]

/-- `SubWord`: the forward substitution box on each byte (41_key_schedule.md R87). -/
def subWord (x : KWord) : KWord := #v[sbox x[0], sbox x[1], sbox x[2], sbox x[3]]

/-- `w ^ Rcon(j)`: the round constant touches byte 0 only (41_key_schedule.md R88). -/
def xorRcon (x : KWord) (j : Nat) : KWord := #v[x[0] ^^^ rcon j, x[1], x[2], x[3]]

/-- Bytewise exclusive-or of two words (00_scope.md R16). -/
def xorWord (x y : KWord) : KWord := #v[x[0] ^^^ y[0], x[1] ^^^ y[1], x[2] ^^^ y[2], x[3] ^^^ y[3]]

/-- Word i of the raw key: `(key[4i], key[4i+1], key[4i+2], key[4i+3])` (41_key_schedule.md R89). -/
def keyWord (key : KeyBytes) (i : Nat) : KWord :=
  #v[byteAt key (4 * i), byteAt key (4 * i + 1), byteAt key (4 * i + 2), byteAt key (4 * i + 3)]

/-- `temp` of iteration i, from `w[i-1]` (41_key_schedule.md R89, with `i mod Nk = 4` as 90_conflicts.md C1 settles). -/
def scheduleTemp (nk i : Nat) (prev : KWord) : KWord :=
  if i % nk = 0 then xorRcon (subWord (rotWord prev)) (i / nk - 1)
  else if nk > 6 ∧ i % nk = 4 then subWord prev
  else prev

/-- A word of the words so far. -/
def wordOf (ws : List KWord) (i : Nat) : KWord := ws.getD i #v[0, 0, 0, 0]

/-- The recurrence, n words still to come: `w[i] <- w[i-Nk] ^ temp`, i the number of words so far (41_key_schedule.md R89). -/
def expandFrom (nk : Nat) : Nat → List KWord → List KWord
  | 0, ws => ws
  | n + 1, ws =>
    let i := ws.length
    expandFrom nk n (ws ++ [xorWord (wordOf ws (i - nk)) (scheduleTemp nk i (wordOf ws (i - 1)))])

/-- The words `w[0 .. 4(Nr+1))` of `KeyExpansion` (41_key_schedule.md R89). -/
def keyExpansionWords (nk nr : Nat) (key : KeyBytes) : List KWord :=
  expandFrom nk (4 * (nr + 1) - nk) ((List.range nk).map (keyWord key))

/-- `KeyExpansion(key)`: "the bytes of w[0], w[1], ..., w[4(Nr+1)-1] in order" (41_key_schedule.md R89). -/
def keyExpansion (nk nr : Nat) (key : KeyBytes) : List Byte :=
  (keyExpansionWords nk nr key).flatMap fun x => [x[0], x[1], x[2], x[3]]

/-- W after KEYEXP: the expansion, then zeros (41_key_schedule.md R92). -/
def loadExpansion (nr : Nat) (e : List Byte) : ExpandedKey :=
  tabulate 240 fun j => if j < 16 * (nr + 1) then e.getD j 0 else 0

/-- KEYEXP's effect (41_key_schedule.md R92, completion). A KEYLEN that selects nothing cannot be completed: acceptance
has checked it (log entry 16). -/
def keyExpEffect (r : Regs) : Except Fault Regs :=
  match selectRounds r.keyLen with
  | some (nk, nr) =>
    .ok { r with
      w := loadExpansion nr (keyExpansion nk nr r.key)
      nk := BitVec.ofNat 4 nk
      nr := BitVec.ofNat 4 nr
      kv := true }
  | none => .error .keyLengthUnselectable

/-- KEYEXP (41_key_schedule.md R92). -/
def execKeyExp (s : State) : Result := runCommand .keyExp checkKeyLength keyExpEffect s

end Sys2Proof.Machine
end

