-- ==== Sys2Proof/Machine/Transforms.lean ====
section
/-! DEFINITION. The seven round transforms and their primitive commands (spec/42_round_transforms.md R94 to R107). -/

namespace Sys2Proof.Machine

/-- `SubBytes(s)[i] = SBOX[s[i]]` (42_round_transforms.md R94). -/
def subBytes (s : Block) : Block := tabulate 16 fun i => sbox (byteAt s i)

/-- `InvSubBytes(s)[i] = INV_SBOX[s[i]]` (42_round_transforms.md R95). -/
def invSubBytes (s : Block) : Block := tabulate 16 fun i => invSbox (byteAt s i)

/-- `ShiftRows(s)[r + 4c] = s[r + 4((c + r) mod 4)]` (42_round_transforms.md R98). -/
def shiftRows (s : Block) : Block :=
  tabulate 16 fun i => byteAt s (i % 4 + 4 * ((i / 4 + i % 4) % 4))

/-- `InvShiftRows(s)[r + 4c] = s[r + 4((c + 4 - r) mod 4)]` (42_round_transforms.md R99). -/
def invShiftRows (s : Block) : Block :=
  tabulate 16 fun i => byteAt s (i % 4 + 4 * ((i / 4 + 4 - i % 4) % 4))

/-- Row r of a column under MixColumns (42_round_transforms.md R102). -/
def mixByte (r : Nat) (a0 a1 a2 a3 : Byte) : Byte :=
  match r with
  | 0 => mul2 a0 ^^^ mul3 a1 ^^^ a2 ^^^ a3
  | 1 => a0 ^^^ mul2 a1 ^^^ mul3 a2 ^^^ a3
  | 2 => a0 ^^^ a1 ^^^ mul2 a2 ^^^ mul3 a3
  | _ => mul3 a0 ^^^ a1 ^^^ a2 ^^^ mul2 a3

/-- Row r of a column under InvMixColumns (42_round_transforms.md R103). -/
def invMixByte (r : Nat) (a0 a1 a2 a3 : Byte) : Byte :=
  match r with
  | 0 => mul14 a0 ^^^ mul11 a1 ^^^ mul13 a2 ^^^ mul9 a3
  | 1 => mul9 a0 ^^^ mul14 a1 ^^^ mul11 a2 ^^^ mul13 a3
  | 2 => mul13 a0 ^^^ mul9 a1 ^^^ mul14 a2 ^^^ mul11 a3
  | _ => mul11 a0 ^^^ mul13 a1 ^^^ mul9 a2 ^^^ mul14 a3

/-- A map of columns applied to each column of the State: `a_k = s[k + 4c]` (42_round_transforms.md R102). -/
def mapColumns (f : Nat → Byte → Byte → Byte → Byte → Byte) (s : Block) : Block :=
  tabulate 16 fun i =>
    let c := i / 4
    f (i % 4) (byteAt s (4 * c)) (byteAt s (1 + 4 * c)) (byteAt s (2 + 4 * c)) (byteAt s (3 + 4 * c))

/-- MixColumns (42_round_transforms.md R102). -/
def mixColumns (s : Block) : Block := mapColumns mixByte s

/-- InvMixColumns (42_round_transforms.md R103). -/
def invMixColumns (s : Block) : Block := mapColumns invMixByte s

/-- Round key r: "the 16 bytes `W[16r .. 16r+15]`" (00_scope.md R18). -/
def roundKey (w : ExpandedKey) (round : Nat) : Block := tabulate 16 fun j => byteAt w (16 * round + j)

/-- `a ^ b` of two States: "bytewise exclusive-or" (00_scope.md R16, 42_round_transforms.md R108). -/
def xorBlock (s t : Block) : Block := tabulate 16 fun j => byteAt s j ^^^ byteAt t j

/-- `AddRoundKey(s, W, round)[j] = s[j] ^ W[16 × round + j]` (42_round_transforms.md R106). -/
def addRoundKey (s : Block) (w : ExpandedKey) (round : Nat) : Block := xorBlock s (roundKey w round)

/-- The effect of a command that maps STATE alone. -/
def blockEffect (f : Block → Block) (r : Regs) : Except Fault Regs := .ok { r with block := f r.block }

/-- ADDROUNDKEY's effect, "defined for `0 ≤ round ≤ Nr`" (42_round_transforms.md R106). Nr is at most 14 (00_scope.md R11).
A round without a key cannot be completed: acceptance has checked it (log entry 16). -/
def addRoundKeyEffect (round : Nat) (r : Regs) : Except Fault Regs :=
  if round ≤ r.nr.toNat ∧ round ≤ 14 then .ok { r with block := addRoundKey r.block r.w round }
  else .error .noSuchRoundKey

/-- SUBBYTES (42_round_transforms.md R96). -/
def execSubBytes (s : State) : Result := runCommand .subBytes checkNone (blockEffect subBytes) s

/-- INVSUBBYTES (42_round_transforms.md R97). -/
def execInvSubBytes (s : State) : Result := runCommand .invSubBytes checkNone (blockEffect invSubBytes) s

/-- SHIFTROWS (42_round_transforms.md R100). -/
def execShiftRows (s : State) : Result := runCommand .shiftRows checkNone (blockEffect shiftRows) s

/-- INVSHIFTROWS (42_round_transforms.md R101). -/
def execInvShiftRows (s : State) : Result := runCommand .invShiftRows checkNone (blockEffect invShiftRows) s

/-- MIXCOLUMNS (42_round_transforms.md R104). -/
def execMixColumns (s : State) : Result := runCommand .mixColumns checkNone (blockEffect mixColumns) s

/-- INVMIXCOLUMNS (42_round_transforms.md R105). -/
def execInvMixColumns (s : State) : Result := runCommand .invMixColumns checkNone (blockEffect invMixColumns) s

/-- ADDROUNDKEY n (42_round_transforms.md R107). -/
def execAddRoundKey (round : Nat) (s : State) : Result :=
  runCommand (.addRoundKey round) (checkRound round) (addRoundKeyEffect round) s

end Sys2Proof.Machine
end

