-- ==== Sys2Proof/Machine/Pipelines.lean ====
section
/-! DEFINITION. The forward and inverse cipher pipelines, ENCRYPT and DECRYPT (spec/43_cipher_pipelines.md R109 to R116). -/

namespace Sys2Proof.Machine

/-- One pass of the forward loop: SubBytes, ShiftRows, MixColumns, AddRoundKey(r) (43_cipher_pipelines.md R109). -/
def cipherRound (w : ExpandedKey) (s : Block) (r : Nat) : Block :=
  addRoundKey (mixColumns (shiftRows (subBytes s))) w r

/-- `Cipher(in, W, Nr)`, the loop running for r = 1 to Nr - 1 (43_cipher_pipelines.md R109, 90_conflicts.md C2). -/
def cipher (input : Block) (w : ExpandedKey) (nr : Nat) : Block :=
  let s := addRoundKey input w 0
  let s := (List.range' 1 (nr - 1)).foldl (cipherRound w) s
  addRoundKey (shiftRows (subBytes s)) w nr

/-- One pass of the inverse loop: AddRoundKey(Nr - r), InvMixColumns, InvShiftRows, InvSubBytes (43_cipher_pipelines.md R110). -/
def invCipherRound (w : ExpandedKey) (nr : Nat) (s : Block) (r : Nat) : Block :=
  invSubBytes (invShiftRows (invMixColumns (addRoundKey s w (nr - r))))

/-- `InvCipher(in, W, Nr)`, the loop running for r = 1 to Nr - 1 (43_cipher_pipelines.md R110, 90_conflicts.md C2). -/
def invCipher (input : Block) (w : ExpandedKey) (nr : Nat) : Block :=
  let s := invSubBytes (invShiftRows (addRoundKey input w nr))
  let s := (List.range' 1 (nr - 1)).foldl (invCipherRound w nr) s
  addRoundKey s w 0

/-- The effect of a pipeline command. A state outside the invariant of 10_state.md R23 "must fault rather than run a
pipeline in it" (43_cipher_pipelines.md R113, log entry 7). -/
def pipelineEffect (f : Block → ExpandedKey → Nat → Block) (r : Regs) : Except Fault Regs :=
  if r.kv && r.wf then .ok { r with block := f r.block r.w r.nr.toNat } else .error .outsideInvariant

/-- ENCRYPT (43_cipher_pipelines.md R115). -/
def execEncrypt (s : State) : Result := runCommand .encrypt checkKeyHeld (pipelineEffect cipher) s

/-- DECRYPT (43_cipher_pipelines.md R116). -/
def execDecrypt (s : State) : Result := runCommand .decrypt checkKeyHeld (pipelineEffect invCipher) s

end Sys2Proof.Machine
end

