-- ==== Sys2Proof/Machine/Transaction.lean ====
section
/-! DEFINITION. The two agents' steps: a host transaction and the core's completion step (spec/20_memory.md R54 to R58, spec/60_exceptions.md R119, spec/43_cipher_pipelines.md R117). -/

namespace Sys2Proof.Machine

/-- The register an acceptable transaction moves, none when it is refused: wrong size, misaligned, reserved offset, a
write to RKEY, or rst asserted (20_memory.md R56). -/
def acceptedReg (s : State) (q : Request) : Option Reg :=
  if s.rst then none
  else if q.size ≠ 2 then none
  else if q.off.toNat % 4 ≠ 0 then none
  else
    match regAt q.off with
    | none => none
    | some g => if q.write && g.readOnly then none else some g

/-- A write of v to CMD (30_encoding.md R67, 60_exceptions.md R119). -/
def writeCmd (v : Word) (s : State) : Result :=
  match decode v with
  | .ok i => exec i s
  | .error _ => .next (issueIllegal s)

/-- An accepted write (20_memory.md R58): a write to CMD issues a command, every other write changes its register. -/
def writeAccepted (q : Request) (g : Reg) (s : State) : Result :=
  if g = .cmd then writeCmd q.wdata (s.answer q none)
  else .next ((s.answer q none).withCore (writeReg g q.wdata s.core))

/-- One transaction, one indivisible step of the host (20_memory.md R61). -/
def hostStep (q : Request) (s : State) : Result :=
  match acceptedReg s q with
  | none => .next (s.refuse q)
  | some g => if q.write then writeAccepted q g s else .next (readReg q g s)

/-- The completion step is "enabled exactly when `STATUS.BUSY = 1`" (43_cipher_pipelines.md R117), and while rst is
asserted "no completion step happens" (70_reset_and_hazards.md R131). -/
def completionEnabled (s : State) : Bool := s.core.busy && !s.rst

/-- The core's step: the completion of the command in flight (43_cipher_pipelines.md R117). Where it is not enabled it
does not happen: nothing changes (log entry 3). -/
def coreStep (s : State) : Result :=
  if completionEnabled s then
    match s.core.pending with
    | some i => exec i (s.withTurn .core)
    | none => .fault .nothingPending
  else .next s

/-- The step one event of the schedule stands for (20_memory.md R63). -/
def eventStep (e : Event) (s : State) : Result :=
  match e with
  | .host q => hostStep q (s.withTurn .host)
  | .complete => coreStep s
  | .assertRst => .next s.assertRst
  | .releaseRst => .next s.releaseRst

/-- The CMD write that issues the value v (30_encoding.md R67): `WR 0x008, v` (R74). -/
def cmdWrite (v : Word) : Request := { write := true, off := 0x008, size := 2, wdata := v }

end Sys2Proof.Machine
end

