-- ==== Sys2Proof/Machine/Step.lean ====
section
/-! DEFINITION. One step of the machine: the next event of the schedule, and once the schedule is empty the core alone (spec/20_memory.md R63, spec/43_cipher_pipelines.md R117). -/

namespace Sys2Proof.Machine

/-- The next step of the interleaving (20_memory.md R63). When no input is left the core still completes its command,
which is the weak fairness of 43_cipher_pipelines.md R117, and an idle core keeps its state (60_exceptions.md R128). -/
def step (s : State) : Host.Outcome State Fault Refusal :=
  match s.inputs with
  | e :: es => eventStep e (s.withInputs es)
  | [] => coreStep s

/-- The machine whose next step is the host's write of this command word to CMD: the core fetches nothing, the host's CMD
write is where a command comes from (10_state.md R25, log entry 15). rst is released, or the write would be refused. -/
def State.withFetchWord (s : State) (nbits w : Nat) : State :=
  { s with
    rst := false
    inputs := .host (cmdWrite (BitVec.ofNat 32 (w % 2 ^ nbits))) :: s.inputs }

end Sys2Proof.Machine
end

