-- ==== Sys2Proof/Machine/HostProgram.lean ====
section
/-! DEFINITION. Host programs: the two transactions, the pseudo-instructions with their expansions, the WAIT loop, and a run of a program under a schedule of the two agents (spec/30_encoding.md R74, R75, spec/20_memory.md R63). -/

namespace Sys2Proof.Machine

/-- `WR off, v` (30_encoding.md R74): an aligned 32-bit write transaction. -/
def wr (off : BitVec 9) (v : Word) : Request := { write := true, off := off, size := 2, wdata := v }

/-- `RD off` (30_encoding.md R74): an aligned 32-bit read transaction, whatever d stands on the write-data lines. -/
def rd (off : BitVec 9) (d : Word) : Request := { write := false, off := off, size := 2, wdata := d }

/-- A line of an expanded host program: a transaction, or WAIT, "the only control flow in a host program"
(30_encoding.md R75). -/
inductive HostLine where
  | transaction (q : Request)
  | wait
  deriving DecidableEq, Repr

/-- A pseudo-instruction of 30_encoding.md R75. The ten commands are one row here: each is the write of its word. -/
inductive Pseudo where
  /-- A command of the opcode table, ADDROUNDKEY's round with it. -/
  | command (i : Instr)
  /-- SETKEYLEN n. -/
  | setKeyLen (n : Word)
  /-- LDKEY of 16, 24 or 32 bytes. -/
  | ldKey (key : List Byte)
  /-- LDSTATE of 16 bytes. -/
  | ldState (block : List Byte)
  /-- RDSTATE. -/
  | rdState
  /-- WAIT. -/
  | wait
  /-- CLRDONE. -/
  | clrDone
  /-- CLROVR. -/
  | clrOvr
  deriving DecidableEq, Repr

/-- The pseudo-instruction is one that 30_encoding.md R75 expands: a round index of 0 to 15 (R68), a key of 16, 24 or 32
bytes, a block of 16. -/
def Pseudo.wf : Pseudo → Bool
  | .command i => i.wf
  | .ldKey key => key.length == 16 || key.length == 24 || key.length == 32
  | .ldState block => block.length == 16
  | .setKeyLen _ => true
  | .rdState => true
  | .wait => true
  | .clrDone => true
  | .clrOvr => true

/-- The value a command's pseudo-instruction writes to CMD: `zext_32(OP)`, and `n << 8 | 0xE` for ADDROUNDKEY n
(30_encoding.md R75). DESIGN CHOICE (log entry 18): the spec bounds n to 0 to 15 (R68, R107) and is silent beyond, and the
model reads the formula as it stands, in 32 bits, so that `ADDROUNDKEY 16` writes 0x0000100E, which is Illegal. -/
def commandWord (i : Instr) : Word :=
  match i with
  | .addRoundKey round => (BitVec.ofNat 32 round <<< 8) ||| 0xE
  | .keyExp | .encrypt | .decrypt | .subBytes | .invSubBytes | .shiftRows | .invShiftRows | .mixColumns | .invMixColumns =>
    (opcode i).setWidth 32

/-- LDKEY and LDSTATE: the whole words of a byte string written from an offset upwards, in increasing order
(30_encoding.md R75). DESIGN CHOICE (log entry 19): for a string of another length than `Pseudo.wf` asks the spec gives no
expansion. The model writes every whole word, drops the bytes of a last partial one, and goes on past the register's end, so
that a longer LDSTATE runs on into KEY. -/
def loadLines : BitVec 9 → List Byte → List HostLine
  | off, b0 :: b1 :: b2 :: b3 :: bs => .transaction (wr off (le32 b0 b1 b2 b3)) :: loadLines (off + 4) bs
  | _, _ => []

/-- The expansion of a pseudo-instruction (30_encoding.md R75). The write data of a read is 0, and no read looks at it.
Where `Pseudo.wf` fails the expansion is the model's choice, not the spec's (log entries 18 and 19). -/
def Pseudo.expand : Pseudo → List HostLine
  | .command i => [.transaction (wr 0x008 (commandWord i))]
  | .setKeyLen n => [.transaction (wr 0x00C n)]
  | .ldKey key => loadLines 0x020 key
  | .ldState block => loadLines 0x010 block
  | .rdState => [0x010, 0x014, 0x018, 0x01C].map fun off => .transaction (rd off 0)
  | .wait => [.wait]
  | .clrDone => [.transaction (wr 0x004 0x00000002)]
  | .clrOvr => [.transaction (wr 0x004 0x00000008)]

/-- The transaction a line issues. WAIT reads STATUS (30_encoding.md R75). -/
def HostLine.request : HostLine → Request
  | .transaction q => q
  | .wait => rd 0x004 0

/-- The value the latest transaction read, 0 where it read none. -/
def State.readValue (s : State) : Word := ((s.last.bind (·.rdata)).getD 0)

/-- The lines still to come once a line's transaction has been answered: WAIT goes back to itself "if bit 0 of the result =
1" (30_encoding.md R75). -/
def HostLine.linesAfter (l : HostLine) (ls : List HostLine) (t : State) : List HostLine :=
  match l with
  | .transaction _ => ls
  | .wait => if t.readValue.getLsbD 0 then l :: ls else ls

/-- A host program run under a schedule that says which agent moves (20_memory.md R63): the host issues its next line, the
core makes its completion step. A program that has ended leaves the host nothing to do. -/
def runProgram : List Agent → List HostLine → State → Result
  | [], _, s => .next s
  | .host :: agents, [], s => runProgram agents [] s
  | .host :: agents, l :: ls, s =>
    match hostStep l.request (s.withTurn .host) with
    | .next t => runProgram agents (l.linesAfter ls t) t
    | .fault f => .fault f
    | .refused r => .refused r
  | .core :: agents, ls, s =>
    match coreStep s with
    | .next t => runProgram agents ls t
    | .fault f => .fault f
    | .refused r => .refused r

end Sys2Proof.Machine
end

