-- ==== Sys2Proof/Safety.lean ====
section
/-! DEFINITION. What claims about runs are stated in: the invariant of reachable states and a run without a bus error (spec/10_state.md R23, spec/60_exceptions.md R121, R122). -/

namespace Sys2Proof.Machine

/-- The next step is the host's transaction q, and rst is not asserted. -/
def Presents (s : State) (q : Request) : Prop := s.inputs.head? = some (.host q) ∧ s.rst = false

/-- The next step is the core's, and it is enabled: BUSY = 1, rst not asserted, and the schedule's next event is the
completion step or the schedule is empty (43_cipher_pipelines.md R117). -/
def CoreMoves (s : State) : Prop :=
  s.core.busy = true ∧ s.rst = false ∧ (s.inputs = [] ∨ s.inputs.head? = some .complete)

/-- The machine after the host's transaction q was taken from the schedule and answered with no error, the core's
registers being r. Every field not written here is as it was. -/
def State.answered (s : State) (q : Request) (rdata : Option Word) (r : Regs) : State :=
  { s with
    core := r
    inputs := s.inputs.tail
    turn := .host
    last := some { req := q, rdata := rdata, error := false } }

/-- The registers after a completion step that leaves b in STATE: STATE, PENDING, BUSY and DONE written, every other
component as it was (43_cipher_pipelines.md R117). -/
def Regs.completedWith (r : Regs) (b : Block) : Regs :=
  { r with block := b, pending := none, busy := false, done := true }

/-- The command in flight passed its acceptance checks, and what they read has not changed since (60_exceptions.md R122,
20_memory.md R66). -/
def pendingAccepted (r : Regs) : Bool :=
  match r.pending with
  | none => true
  | some .keyExp => (checkKeyLength r).isNone
  | some .encrypt => (checkKeyHeld r).isNone
  | some .decrypt => (checkKeyHeld r).isNone
  | some (.addRoundKey n) => (checkRound n r).isNone
  | some .subBytes => true
  | some .invSubBytes => true
  | some .shiftRows => true
  | some .invShiftRows => true
  | some .mixColumns => true
  | some .invMixColumns => true

/-- The invariant of reachable states: 10_state.md R23 with the zero tail of R30, and the acceptance checks of the command
in flight. -/
def Invariant (s : State) : Prop := s.core.wf = true ∧ pendingAccepted s.core = true

/-- No transaction of the host program has been refused so far (60_exceptions.md R121). -/
def NoBusError (s : State) : Prop := s.hostFault = false

/-- A safe run so far: the invariant holds and the program has made no bus error. -/
def Safe (s : State) : Prop := Invariant s ∧ NoBusError s

end Sys2Proof.Machine
end

