-- ==== Sys2Proof/Certificates/Slice0/Obligations.lean ====
section
/-! DEFINITION. The statements about the model: encoding, tables, each command's result with its frame, acceptance and errors, the register interface, reset, the interrupt, and the whole-machine rules. -/

open Sys2Proof Sys2Proof.Machine

/-! ## Encoding -/

/-- The ten command words of 30_encoding.md R69, written out, and reserved values (R70), through the decoder. A sanity
statement. -/
def Obligations.DecoderReadsTheCommandWords : Prop :=
  decode 0x00000001 = .ok .keyExp ∧ decode 0x00000002 = .ok .encrypt ∧ decode 0x00000003 = .ok .decrypt
    ∧ decode 0x00000008 = .ok .subBytes ∧ decode 0x00000009 = .ok .invSubBytes
    ∧ decode 0x0000000A = .ok .shiftRows ∧ decode 0x0000000B = .ok .invShiftRows
    ∧ decode 0x0000000C = .ok .mixColumns ∧ decode 0x0000000D = .ok .invMixColumns
    ∧ decode 0x0000070E = .ok (.addRoundKey 7)
    ∧ decode 0x00000000 = .error .illegal ∧ decode 0x00000101 = .error .illegal
    ∧ decode 0x00000010 = .error .illegal ∧ decode 0x80000002 = .error .illegal

/-- Decode and encode agree, both ways: every command that has an encoding is decoded from it, and every value that
decodes is the encoding of its command. -/
def Obligations.DecodeAndEncodeAgree : Prop :=
  (∀ i : Instr, i.wf = true → decode (encode i) = .ok i)
    ∧ ∀ (v : Word) (i : Instr), decode v = .ok i → i.wf = true ∧ encode i = v

/-- "Exactly 25 of the 2^32 values decode to a command" (30_encoding.md R70): the nine words `zext_32(op)` and the
sixteen words `0x00000R0E`, each to its command. Every other value is Illegal. -/
def Obligations.ExactlyTwentyFiveWordsDecode : Prop :=
  (∀ v : Word, (∃ i, decode v = .ok i) ↔
      v ∈ [0x1#32, 0x2#32, 0x3#32, 0x8#32, 0x9#32, 0xA#32, 0xB#32, 0xC#32, 0xD#32]
      ∨ ∃ n : Nat, n < 16 ∧ v = BitVec.ofNat 32 (n * 256 + 14))
    ∧ decode 0x1 = .ok .keyExp ∧ decode 0x2 = .ok .encrypt ∧ decode 0x3 = .ok .decrypt
    ∧ decode 0x8 = .ok .subBytes ∧ decode 0x9 = .ok .invSubBytes ∧ decode 0xA = .ok .shiftRows
    ∧ decode 0xB = .ok .invShiftRows ∧ decode 0xC = .ok .mixColumns ∧ decode 0xD = .ok .invMixColumns
    ∧ (∀ n : Nat, n < 16 → decode (BitVec.ofNat 32 (n * 256 + 14)) = .ok (.addRoundKey n))
    ∧ (∀ v : Word, (∀ i, decode v ≠ .ok i) → decode v = .error .illegal)

/-! ## Constant tables -/

/-- The six multiplication tables are the field products by their constants (40_constant_tables.md R80). -/
def Obligations.MultiplicationTablesAreFieldProducts : Prop :=
  ∀ a : Byte, mul2 a = gmul a 2 ∧ mul3 a = gmul a 3 ∧ mul9 a = gmul a 9 ∧ mul11 a = gmul a 11
    ∧ mul13 a = gmul a 13 ∧ mul14 a = gmul a 14

/-- SBOX is the affine map of the field inverse, 0 mapped as 0, a permutation, and no byte maps to itself (40_constant_tables.md R81). -/
def Obligations.SboxIsAffineOfInverse : Prop :=
  (∀ a b : Byte, sbox a = sbox b → a = b) ∧ ∀ a : Byte, sbox a ≠ a
    ∧ ∃ b : Byte, (a = 0 → b = 0) ∧ (a ≠ 0 → gmul a b = 1) ∧ sbox a = affine b

/-- INV_SBOX is the inverse permutation of SBOX (40_constant_tables.md R82). -/
def Obligations.InverseSboxInvertsSbox : Prop :=
  ∀ a : Byte, invSbox (sbox a) = a ∧ sbox (invSbox a) = a

/-- `RCON[0] = 0x01` and `RCON[j+1] = xtime(RCON[j])` for the ten entries (40_constant_tables.md R83). -/
def Obligations.RconIsPowersOfX : Prop :=
  rconTable.length = 10 ∧ rcon 0 = 0x01 ∧ ∀ j, j < 9 → rcon (j + 1) = xtime (rcon j)

/-! ## Key schedule -/

/-- The round-count selector's table (41_key_schedule.md R85), with `Nk = KEYLEN div 4` and `Nr = Nk + 6`. -/
def Obligations.RoundCountSelector : Prop :=
  ∀ len : BitVec 8, selectRounds len =
    if len.toNat ∈ [16, 24, 32] then some (len.toNat / 4, len.toNat / 4 + 6) else none

/-- KEYEXP's completion (41_key_schedule.md R92) by the recurrence of R89. The words are the key's, then
`w[i-Nk] ^ temp`. W takes their bytes and zeros after them, NK, NR and KV are written, and nothing else but PENDING, BUSY
and DONE changes. -/
def Obligations.KeyExpCompletesByTheRecurrence : Prop :=
  ∀ (s : State) (nk nr : Nat), s.turn = .core →
    (s.core.keyLen.toNat, nk, nr) ∈ [(16, 4, 10), (24, 6, 12), (32, 8, 14)] →
    ∃ (word : Nat → KWord) (w : ExpandedKey),
      (∀ i k, i < nk → k < 4 → (word i)[k]? = s.core.key[4 * i + k]?)
      ∧ (∀ i, nk ≤ i → i < 4 * (nr + 1) → ∀ t0 t1 t2 t3 : Byte, word (i - 1) = #v[t0, t1, t2, t3] →
          word i = xorWord (word (i - nk))
            (if i % nk = 0 then #v[sbox t1 ^^^ rcon (i / nk - 1), sbox t2, sbox t3, sbox t0]
             else if nk > 6 ∧ i % nk = 4 then #v[sbox t0, sbox t1, sbox t2, sbox t3]
             else #v[t0, t1, t2, t3]))
      ∧ (∀ i k, i < 60 → k < 4 → w[4 * i + k]? = if i < 4 * (nr + 1) then (word i)[k]? else some 0)
      ∧ exec .keyExp s = .next { s with core := { s.core with
            w := w, nk := BitVec.ofNat 4 nk, nr := BitVec.ofNat 4 nr, kv := true
            pending := none, busy := false, done := true } }

/-- The first derived word of the source's key-schedule vector is `a0fafe17` (41_key_schedule.md R91, R93). -/
def Obligations.FirstDerivedWordOfTheSourceVector : Prop :=
  ∀ key : KeyBytes,
    (∀ i, i < 4 → keyWord key i = [#v[0x2b, 0x7e, 0x15, 0x16], #v[0x28, 0xae, 0xd2, 0xa6], #v[0xab, 0xf7, 0x15, 0x88],
      #v[0x09, 0xcf, 0x4f, 0x3c]].getD i #v[0, 0, 0, 0]) →
    wordOf (keyExpansionWords 4 10 key) 4 = #v[0xa0, 0xfa, 0xfe, 0x17]

/-! ## The primitive commands: each completes, with its result and its frame -/

/-- SUBBYTES at the core's turn: `STATE <- SubBytes(STATE)`, byte by byte (42_round_transforms.md R94, R96). -/
def Obligations.SubBytesCompletes : Prop :=
  ∀ s : State, s.turn = .core →
    ∃ b : Block, (∀ i : Fin 16, b[i] = sbox s.core.block[i])
      ∧ exec .subBytes s = .next { s with core := s.core.completedWith b }

/-- INVSUBBYTES at the core's turn: `STATE <- InvSubBytes(STATE)` (42_round_transforms.md R95, R97). -/
def Obligations.InvSubBytesCompletes : Prop :=
  ∀ s : State, s.turn = .core →
    ∃ b : Block, (∀ i : Fin 16, b[i] = invSbox s.core.block[i])
      ∧ exec .invSubBytes s = .next { s with core := s.core.completedWith b }

/-- SHIFTROWS at the core's turn: `ShiftRows(s)[r + 4c] = s[r + 4((c + r) mod 4)]` (42_round_transforms.md R98, R100). -/
def Obligations.ShiftRowsCompletes : Prop :=
  ∀ s : State, s.turn = .core →
    ∃ b : Block, (∀ r c : Nat, r < 4 → c < 4 → b[r + 4 * c]? = s.core.block[r + 4 * ((c + r) % 4)]?)
      ∧ exec .shiftRows s = .next { s with core := s.core.completedWith b }

/-- INVSHIFTROWS at the core's turn: `InvShiftRows(s)[r + 4c] = s[r + 4((c + 4 - r) mod 4)]`
(42_round_transforms.md R99, R101). -/
def Obligations.InvShiftRowsCompletes : Prop :=
  ∀ s : State, s.turn = .core →
    ∃ b : Block, (∀ r c : Nat, r < 4 → c < 4 → b[r + 4 * c]? = s.core.block[r + 4 * ((c + 4 - r) % 4)]?)
      ∧ exec .invShiftRows s = .next { s with core := s.core.completedWith b }

/-- MIXCOLUMNS at the core's turn, column by column (42_round_transforms.md R102, R104). -/
def Obligations.MixColumnsCompletes : Prop :=
  ∀ s : State, s.turn = .core →
    ∃ b : Block,
      (∀ c, c < 4 → ∀ a0 a1 a2 a3 : Byte, s.core.block[4 * c]? = some a0 → s.core.block[4 * c + 1]? = some a1 →
        s.core.block[4 * c + 2]? = some a2 → s.core.block[4 * c + 3]? = some a3 →
          b[4 * c]? = some (mul2 a0 ^^^ mul3 a1 ^^^ a2 ^^^ a3)
          ∧ b[4 * c + 1]? = some (a0 ^^^ mul2 a1 ^^^ mul3 a2 ^^^ a3)
          ∧ b[4 * c + 2]? = some (a0 ^^^ a1 ^^^ mul2 a2 ^^^ mul3 a3)
          ∧ b[4 * c + 3]? = some (mul3 a0 ^^^ a1 ^^^ a2 ^^^ mul2 a3))
      ∧ exec .mixColumns s = .next { s with core := s.core.completedWith b }

/-- INVMIXCOLUMNS at the core's turn, column by column (42_round_transforms.md R103, R105). -/
def Obligations.InvMixColumnsCompletes : Prop :=
  ∀ s : State, s.turn = .core →
    ∃ b : Block,
      (∀ c, c < 4 → ∀ a0 a1 a2 a3 : Byte, s.core.block[4 * c]? = some a0 → s.core.block[4 * c + 1]? = some a1 →
        s.core.block[4 * c + 2]? = some a2 → s.core.block[4 * c + 3]? = some a3 →
          b[4 * c]? = some (mul14 a0 ^^^ mul11 a1 ^^^ mul13 a2 ^^^ mul9 a3)
          ∧ b[4 * c + 1]? = some (mul9 a0 ^^^ mul14 a1 ^^^ mul11 a2 ^^^ mul13 a3)
          ∧ b[4 * c + 2]? = some (mul13 a0 ^^^ mul9 a1 ^^^ mul14 a2 ^^^ mul11 a3)
          ∧ b[4 * c + 3]? = some (mul11 a0 ^^^ mul13 a1 ^^^ mul9 a2 ^^^ mul14 a3))
      ∧ exec .invMixColumns s = .next { s with core := s.core.completedWith b }

/-- ADDROUNDKEY n at the core's turn, for a round key that exists: `s[j] ^ W[16 × round + j]`
(42_round_transforms.md R106, R107). -/
def Obligations.AddRoundKeyCompletes : Prop :=
  ∀ (s : State) (n : Nat), s.turn = .core → n ≤ s.core.nr.toNat → n ≤ 14 →
    ∃ b : Block,
      (∀ j, j < 16 → ∀ x k : Byte, s.core.block[j]? = some x → s.core.w[16 * n + j]? = some k → b[j]? = some (x ^^^ k))
      ∧ exec (.addRoundKey n) s = .next { s with core := s.core.completedWith b }

/-- A command that reaches its completion without its operands stops, in a state no run reaches: ADDROUNDKEY without its
round key, KEYEXP with a key length that selects nothing, BUSY with nothing pending. The model's choice (log entry 16). -/
def Obligations.CompletionsWithoutOperandsFault : Prop :=
  (∀ (s : State) (n : Nat), s.turn = .core → ¬(n ≤ s.core.nr.toNat ∧ n ≤ 14) →
      exec (.addRoundKey n) s = .fault .noSuchRoundKey)
    ∧ (∀ s : State, s.turn = .core → s.core.keyLen ∉ [16#8, 24#8, 32#8] →
      exec .keyExp s = .fault .keyLengthUnselectable)
    ∧ (∀ s : State, CoreMoves s → s.core.pending = none → step s = .fault .nothingPending)

/-! ## The pipelines -/

/-- ENCRYPT at the core's turn, with a key held and the invariant of 10_state.md R23: the stages of the forward pipeline
(43_cipher_pipelines.md R109, R115). -/
def Obligations.EncryptRunsTheForwardPipeline : Prop :=
  ∀ s : State, s.turn = .core → s.core.kv = true → s.core.wf = true →
    ∃ stage : Nat → Block,
      stage 0 = addRoundKey s.core.block s.core.w 0
      ∧ (∀ r, 1 ≤ r → r < s.core.nr.toNat →
          stage r = addRoundKey (mixColumns (shiftRows (subBytes (stage (r - 1))))) s.core.w r)
      ∧ exec .encrypt s = .next (s.withCore (s.core.completedWith
          (addRoundKey (shiftRows (subBytes (stage (s.core.nr.toNat - 1)))) s.core.w s.core.nr.toNat)))

/-- DECRYPT at the core's turn, with a key held and the invariant of 10_state.md R23: the stages of the inverse pipeline
(43_cipher_pipelines.md R110, R116). -/
def Obligations.DecryptRunsTheInversePipeline : Prop :=
  ∀ s : State, s.turn = .core → s.core.kv = true → s.core.wf = true →
    ∃ stage : Nat → Block,
      stage 0 = invSubBytes (invShiftRows (addRoundKey s.core.block s.core.w s.core.nr.toNat))
      ∧ (∀ r, 1 ≤ r → r < s.core.nr.toNat →
          stage r = invSubBytes (invShiftRows (invMixColumns
            (addRoundKey (stage (r - 1)) s.core.w (s.core.nr.toNat - r)))))
      ∧ exec .decrypt s = .next (s.withCore (s.core.completedWith
          (addRoundKey (stage (s.core.nr.toNat - 1)) s.core.w 0)))

/-- Outside the invariant no pipeline runs: ENCRYPT and DECRYPT fault (43_cipher_pipelines.md R113). That a nonzero tail of
W is outside it too is the model's reading (log entry 7). -/
def Obligations.PipelinesFaultOutsideTheInvariant : Prop :=
  ∀ s : State, s.turn = .core → ¬(s.core.kv = true ∧ s.core.wf = true) →
    exec .encrypt s = .fault .outsideInvariant ∧ exec .decrypt s = .fault .outsideInvariant

/-! ## Laws of the transforms -/

/-- `InvSubBytes(SubBytes(s)) = s` and `SubBytes(InvSubBytes(s)) = s` for every s (42_round_transforms.md R95). -/
def Obligations.SubBytesAndInverseCancel : Prop :=
  ∀ s : Block, invSubBytes (subBytes s) = s ∧ subBytes (invSubBytes s) = s

/-- `InvShiftRows(ShiftRows(s)) = s`, the other way round too, and four ShiftRows are the identity
(42_round_transforms.md R99). -/
def Obligations.ShiftRowsAndInverseCancel : Prop :=
  ∀ s : Block, invShiftRows (shiftRows s) = s ∧ shiftRows (invShiftRows s) = s
    ∧ shiftRows (shiftRows (shiftRows (shiftRows s))) = s

/-- `InvMixColumns(MixColumns(s)) = s`, the other way round too, and MixColumns four times is the identity
(42_round_transforms.md R103). -/
def Obligations.MixColumnsAndInverseCancel : Prop :=
  ∀ s : Block, invMixColumns (mixColumns s) = s ∧ mixColumns (invMixColumns s) = s
    ∧ mixColumns (mixColumns (mixColumns (mixColumns s))) = s

/-- The laws of 42_round_transforms.md R108, which the spec derives from R94 to R106: SubBytes and ShiftRows commute, and so
do their inverses. MixColumns and InvMixColumns are linear over the bytewise exclusive-or. SubBytes, ShiftRows and MixColumns
are bijections: each State b is the image of exactly one State, the named inverse of b. -/
def Obligations.TransformsCommuteAndMixIsLinear : Prop :=
  (∀ s : Block, subBytes (shiftRows s) = shiftRows (subBytes s) ∧ invSubBytes (invShiftRows s) = invShiftRows (invSubBytes s))
    ∧ (∀ s t : Block, (∀ i : Fin 16, (xorBlock s t)[i] = s[i] ^^^ t[i])
        ∧ mixColumns (xorBlock s t) = xorBlock (mixColumns s) (mixColumns t)
        ∧ invMixColumns (xorBlock s t) = xorBlock (invMixColumns s) (invMixColumns t))
    ∧ ∀ s b : Block, (subBytes s = b ↔ s = invSubBytes b) ∧ (shiftRows s = b ↔ s = invShiftRows b)
        ∧ (mixColumns s = b ↔ s = invMixColumns b)

/-- `AddRoundKey(AddRoundKey(s, W, r), W, r) = s` (42_round_transforms.md R106). -/
def Obligations.AddRoundKeyIsItsOwnInverse : Prop :=
  ∀ (s : Block) (w : ExpandedKey) (r : Nat), addRoundKey (addRoundKey s w r) w r = s

/-- "the two operations are mutual inverses under the same key" (43_cipher_pipelines.md R111), for every W and every legal
round count. -/
def Obligations.PipelinesAreMutualInverses : Prop :=
  ∀ (p : Block) (w : ExpandedKey) (nr : Nat), nr ∈ [10, 12, 14] →
    invCipher (cipher p w nr) w nr = p ∧ cipher (invCipher p w nr) w nr = p

/-- ENCRYPT issued and completed, then DECRYPT issued and completed, restores STATE and every other register but DONE and
ERR: four steps of the machine from an idle state that holds a key (43_cipher_pipelines.md R111, R116). The
turn field is the model's own (log entry 2). -/
def Obligations.EncryptThenDecryptRestoresTheState : Prop :=
  ∀ (s : State) (es : List Event), s.core.kv = true → s.core.wf = true → s.core.busy = false → s.rst = false →
    s.inputs = .host (wr 0x008 0x2) :: .complete :: .host (wr 0x008 0x3) :: .complete :: es →
    Host.Core.run core 4 s = .next { s with
      core := { s.core with done := true, err := 0 }
      inputs := es
      turn := .core
      last := some { req := wr 0x008 0x3, rdata := none, error := false } }

/-! ## Acceptance and errors -/

/-- A command that passes every check is accepted: PENDING, BUSY, DONE and ERR written, nothing else
(60_exceptions.md R119). -/
def Obligations.AcceptedCommandOccupiesTheCore : Prop :=
  ∀ (i : Instr) (s : State), s.turn = .host → s.core.busy = false →
    (i = .keyExp → s.core.keyLen ∈ [16#8, 24#8, 32#8]) →
    (i = .encrypt ∨ i = .decrypt ∨ (∃ n, i = .addRoundKey n) → s.core.kv = true) →
    (∀ n, i = .addRoundKey n → n ≤ s.core.nr.toNat) →
    exec i s = .next { s with core := { s.core with pending := some i, busy := true, done := false, err := 0 } }

/-- The errors of acceptance in their order (60_exceptions.md R118, R119, R120): each sets DONE and ERR and changes nothing
else. -/
def Obligations.RefusedCommandRecordsOneError : Prop :=
  ∀ s : State, s.turn = .host → s.core.busy = false →
    (s.core.keyLen ∉ [16#8, 24#8, 32#8] →
      exec .keyExp s = .next { s with core := { s.core with done := true, err := 1 } })
    ∧ (s.core.kv = false →
        exec .encrypt s = .next { s with core := { s.core with done := true, err := 2 } }
        ∧ exec .decrypt s = .next { s with core := { s.core with done := true, err := 2 } }
        ∧ ∀ n, exec (.addRoundKey n) s = .next { s with core := { s.core with done := true, err := 2 } })
    ∧ (s.core.kv = true → ∀ n, s.core.nr.toNat < n →
        exec (.addRoundKey n) s = .next { s with core := { s.core with done := true, err := 4 } })

/-- A CMD value that decodes as Illegal, written while the core is not busy, sets DONE and ERR = 3 and changes no other
register (30_encoding.md R71). -/
def Obligations.IllegalCommandRecordsError : Prop :=
  ∀ (s : State) (v : Word), Presents s (wr 0x008 v) → s.core.busy = false → (∀ i, decode v ≠ .ok i) →
    step s = .next (s.answered (wr 0x008 v) none { s.core with done := true, err := 3 })

/-- While BUSY = 1 a write to CMD (any value, a command or not), KEYLEN, KEY or STATE is dropped and sets OVR, with no bus
error. A write to CTRL or STATUS takes effect (70_reset_and_hazards.md R135). -/
def Obligations.WritesWhileBusyAreDropped : Prop :=
  ∀ (s : State) (v : Word), s.core.busy = true →
    (∀ m, 2 ≤ m → m ≤ 15 → Presents s (wr (BitVec.ofNat 9 (4 * m)) v) →
      step s = .next (s.answered (wr (BitVec.ofNat 9 (4 * m)) v) none { s.core with ovr := true }))
    ∧ (Presents s (wr 0x000 v) → step s = .next (s.answered (wr 0x000 v) none { s.core with ie := v.getLsbD 0 }))
    ∧ (Presents s (wr 0x004 v) → step s = .next (s.answered (wr 0x004 v) none { s.core with
        done := if v.getLsbD 1 then false else s.core.done
        err := if v.getLsbD 1 then 0 else s.core.err
        ovr := if v.getLsbD 3 then false else s.core.ovr }))

/-! ## A step runs the decoded command -/

/-- When the host's next transaction is a write of v to CMD and v decodes to i, the step is exec of i at the host's turn,
the transaction taken from the schedule and answered (60_exceptions.md R119). -/
def Obligations.StepIssuesTheDecodedCommand : Prop :=
  ∀ (s : State) (v : Word) (i : Instr), Presents s (wr 0x008 v) → decode v = .ok i →
    step s = exec i (s.answered (wr 0x008 v) none s.core)

/-- A fetch word placed by `withFetchWord` is the command the next step runs, and a table word is read by the same decoder
(log entry 15). -/
def Obligations.FetchWordIsTheNextCommand : Prop :=
  (∀ (s : State) (v : Word) (i : Instr), decode v = .ok i →
      step (s.withFetchWord 32 v.toNat) = exec i { s with
        rst := false
        turn := .host
        last := some { req := wr 0x008 v, rdata := none, error := false } })
    ∧ ∀ v : Word, decodeTableWord 32 v.toNat = (decode v).toOption

/-- When the core moves, the step is exec of the command in flight at the core's turn, the completion event taken from the
schedule (43_cipher_pipelines.md R117). That the core also moves on an empty schedule is the model's choice (log entry 1). -/
def Obligations.StepCompletesThePendingCommand : Prop :=
  ∀ (s : State) (i : Instr), CoreMoves s → s.core.pending = some i →
    step s = exec i { s with inputs := s.inputs.tail, turn := .core }

/-- Where no completion step is enabled, a scheduled one and an empty schedule change no register of the core: an idle core
keeps all its state (43_cipher_pipelines.md R117, 60_exceptions.md R128). That such an event is taken and does nothing, and
what a step does on an empty schedule, are the model's choices (log entries 3 and 1). -/
def Obligations.IdleCoreKeepsItsState : Prop :=
  ∀ s : State, (s.core.busy = false ∨ s.rst = true) → (s.inputs = [] ∨ s.inputs.head? = some .complete) →
    step s = .next { s with inputs := s.inputs.tail }

/-! ## The register interface -/

/-- A write to CTRL: bit 0 is IE, the rest is ignored, busy or not. A read returns IE in bit 0 and zeros
(10_state.md R32). -/
def Obligations.CtrlHoldsTheInterruptEnable : Prop :=
  ∀ (s : State) (v d : Word),
    (Presents s (wr 0x000 v) → step s = .next (s.answered (wr 0x000 v) none { s.core with ie := v.getLsbD 0 }))
    ∧ (Presents s (rd 0x000 d) → ∃ x : Word, x.getLsbD 0 = s.core.ie ∧ (∀ k, 1 ≤ k → x.getLsbD k = false)
        ∧ step s = .next (s.answered (rd 0x000 d) (some x) s.core))

/-- A write of v to STATUS, busy or not (10_state.md R40). -/
def Obligations.StatusWriteClearsByOnes : Prop :=
  ∀ (s : State) (v : Word), Presents s (wr 0x004 v) →
    step s = .next (s.answered (wr 0x004 v) none { s.core with
      done := if v.getLsbD 1 then false else s.core.done
      err := if v.getLsbD 1 then 0 else s.core.err
      ovr := if v.getLsbD 3 then false else s.core.ovr })

/-- What a read of STATUS returns, bit by bit, and that it changes nothing (10_state.md R33). -/
def Obligations.StatusReadHasItsLayout : Prop :=
  ∀ (s : State) (d : Word), Presents s (rd 0x004 d) → ∃ x : Word,
    step s = .next (s.answered (rd 0x004 d) (some x) s.core)
    ∧ x.getLsbD 0 = s.core.busy ∧ x.getLsbD 1 = s.core.done ∧ x.getLsbD 2 = s.core.kv ∧ x.getLsbD 3 = s.core.ovr
    ∧ x.extractLsb' 8 4 = s.core.err ∧ x.extractLsb' 16 4 = s.core.nr ∧ x.extractLsb' 20 4 = s.core.nk
    ∧ x.extractLsb' 4 4 = 0 ∧ x.extractLsb' 12 4 = 0 ∧ x.extractLsb' 24 8 = 0

/-- Writes to KEYLEN, STATE and KEY while not busy, lane by lane, with every other byte and register kept
(20_memory.md R52, R58). -/
def Obligations.IdleWritesReachTheirBytes : Prop :=
  ∀ (s : State) (v : Word), s.core.busy = false →
    (Presents s (wr 0x00C v) →
      step s = .next (s.answered (wr 0x00C v) none { s.core with keyLen := v.extractLsb' 0 8 }))
    ∧ (∀ m, m < 4 → Presents s (wr (BitVec.ofNat 9 (0x010 + 4 * m)) v) → ∃ b : Block,
        (∀ j, j < 16 → b[j]? = if j / 4 = m then some (v.extractLsb' (8 * (j % 4)) 8) else s.core.block[j]?)
        ∧ step s = .next (s.answered (wr (BitVec.ofNat 9 (0x010 + 4 * m)) v) none { s.core with block := b }))
    ∧ (∀ m, m < 8 → Presents s (wr (BitVec.ofNat 9 (0x020 + 4 * m)) v) → ∃ k : KeyBytes,
        (∀ j, j < 32 → k[j]? = if j / 4 = m then some (v.extractLsb' (8 * (j % 4)) 8) else s.core.key[j]?)
        ∧ step s = .next (s.answered (wr (BitVec.ofNat 9 (0x020 + 4 * m)) v) none { s.core with key := k }))

/-- Reads of CMD, KEYLEN, KEY, and of STATE and RKEY where they are no free draw, lane by lane, changing nothing
(20_memory.md R52, R57). -/
def Obligations.ReadsReturnTheirBytes : Prop :=
  ∀ (s : State) (d : Word),
    (Presents s (rd 0x008 d) → step s = .next (s.answered (rd 0x008 d) (some 0) s.core))
    ∧ (Presents s (rd 0x00C d) → ∃ x : Word, x.toNat = s.core.keyLen.toNat
        ∧ step s = .next (s.answered (rd 0x00C d) (some x) s.core))
    ∧ (∀ m, m < 4 → s.core.busy = false → Presents s (rd (BitVec.ofNat 9 (0x010 + 4 * m)) d) → ∃ x : Word,
        (∀ k, k < 4 → s.core.block[4 * m + k]? = some (x.extractLsb' (8 * k) 8))
        ∧ step s = .next (s.answered (rd (BitVec.ofNat 9 (0x010 + 4 * m)) d) (some x) s.core))
    ∧ (∀ m, m < 8 → Presents s (rd (BitVec.ofNat 9 (0x020 + 4 * m)) d) → ∃ x : Word,
        (∀ k, k < 4 → s.core.key[4 * m + k]? = some (x.extractLsb' (8 * k) 8))
        ∧ step s = .next (s.answered (rd (BitVec.ofNat 9 (0x020 + 4 * m)) d) (some x) s.core))
    ∧ (∀ i, i < 60 → ¬(s.core.busy = true ∧ s.core.pending = some .keyExp) →
        Presents s (rd (BitVec.ofNat 9 (0x100 + 4 * i)) d) → ∃ x : Word,
        (∀ k, k < 4 → s.core.w[4 * i + k]? = some (x.extractLsb' (8 * k) 8))
        ∧ step s = .next (s.answered (rd (BitVec.ofNat 9 (0x100 + 4 * i)) d) (some x) s.core))

/-- While busy a read of STATE, and while a KEYEXP is in flight a read of RKEY, is answered with the next free draw and
moves on to another one, whatever the draw's value. No register changes (20_memory.md R60). The draw counter is the model's
own field (log entry 5). -/
def Obligations.BusyReadsAreFreeDraws : Prop :=
  ∀ (s : State) (d : Word), s.core.busy = true →
    (∀ m, m < 4 → Presents s (rd (BitVec.ofNat 9 (0x010 + 4 * m)) d) →
      step s = .next { s.answered (rd (BitVec.ofNat 9 (0x010 + 4 * m)) d) (some (Config.any32 s.draws)) s.core with
        draws := s.draws + 1 })
    ∧ (∀ i, i < 60 → s.core.pending = some .keyExp → Presents s (rd (BitVec.ofNat 9 (0x100 + 4 * i)) d) →
      step s = .next { s.answered (rd (BitVec.ofNat 9 (0x100 + 4 * i)) d) (some (Config.any32 s.draws)) s.core with
        draws := s.draws + 1 })

/-- Exactly the transactions of 20_memory.md R56 are refused: `rsp_error = 1`, a refused read returns 0, no state of the core
changes and the program's fault bit is set (60_exceptions.md R121). Every other one is answered with no error and leaves the
fault bit as it was. -/
def Obligations.TransactionsAreRefusedExactlyByTheList : Prop :=
  ∀ (s : State) (q : Request), s.inputs.head? = some (.host q) →
    let refusedByR56 := q.size ≠ 2 ∨ q.off.toNat % 4 ≠ 0 ∨ (0x040 ≤ q.off.toNat ∧ q.off.toNat < 0x100)
      ∨ 0x1F0 ≤ q.off.toNat ∨ (q.write = true ∧ 0x100 ≤ q.off.toNat ∧ q.off.toNat < 0x1F0) ∨ s.rst = true
    (refusedByR56 → step s = .next { s with
        inputs := s.inputs.tail
        turn := .host
        last := some { req := q, rdata := if q.write then none else some 0, error := true }
        hostFault := true })
    ∧ (¬refusedByR56 → ∃ (t : State) (d : Option Word), step s = .next t
        ∧ t.last = some { req := q, rdata := d, error := false } ∧ (d.isSome ↔ q.write = false)
        ∧ t.hostFault = s.hostFault)

/-- No read changes a register of the core (20_memory.md R57, R59), refused or not. -/
def Obligations.ReadsHaveNoSideEffect : Prop :=
  ∀ (s : State) (q : Request), s.inputs.head? = some (.host q) → q.write = false →
    ∃ t, step s = .next t ∧ t.core = s.core ∧ t.rst = s.rst ∧ t.inputs = s.inputs.tail

/-! ## Reset and the interrupt -/

/-- Asserting rst takes every component to its reset value and drops the command in flight. While rst is asserted every
transaction is refused and no completion step happens (70_reset_and_hazards.md R131). -/
def Obligations.ResetClearsEverything : Prop :=
  (∀ s : State, s.inputs.head? = some .assertRst → ∃ t, step s = .next t ∧ t.rst = true
      ∧ t.core.ie = false ∧ t.core.busy = false ∧ t.core.done = false ∧ t.core.kv = false ∧ t.core.ovr = false
      ∧ t.core.err = 0 ∧ t.core.nk = 0 ∧ t.core.nr = 0 ∧ t.core.keyLen = 0 ∧ t.core.pending = none
      ∧ (∀ i : Fin 32, t.core.key[i] = 0) ∧ (∀ i : Fin 16, t.core.block[i] = 0) ∧ ∀ i : Fin 240, t.core.w[i] = 0)
    ∧ (∀ (s : State) (q : Request), s.rst = true → s.inputs.head? = some (.host q) →
        ∃ t d, step s = .next t ∧ t.core = s.core ∧ t.last = some { req := q, rdata := d, error := true })
    ∧ (∀ s : State, s.rst = true → (s.inputs = [] ∨ s.inputs.head? = some .complete) →
        ∃ t, step s = .next t ∧ t.core = s.core)

/-- The machine right after reset: idle, no key, interrupt masked, no error (70_reset_and_hazards.md R132). -/
def Obligations.ResetStateIsIdleWithoutKey : Prop :=
  State.reset.core.busy = false ∧ State.reset.core.done = false ∧ State.reset.core.kv = false
    ∧ State.reset.core.nk = 0 ∧ State.reset.core.nr = 0 ∧ State.reset.core.ie = false
    ∧ irq State.reset.core = false ∧ State.reset.core.err = 0 ∧ State.reset.core.ovr = false

/-- When irq can change (60_exceptions.md R124): it is IE and DONE, an accepted command, a STATUS write with bit 1 set and
reset clear it, a refused command raises it if enabled, a refused transaction and a dropped write leave it. -/
def Obligations.InterruptFollowsEnableAndDone : Prop :=
  (∀ r : Regs, irq r = true ↔ r.ie = true ∧ r.done = true)
    ∧ (∀ (i : Instr) (s t : State), s.turn = .host → exec i s = .next t →
        (s.core.busy = false → t.core.busy = true → irq t.core = false)
        ∧ (s.core.busy = false → t.core.busy = false → irq t.core = s.core.ie)
        ∧ (s.core.busy = true → irq t.core = irq s.core))
    ∧ (∀ (i : Instr) (s t : State), s.turn = .core → exec i s = .next t → irq t.core = s.core.ie)
    ∧ (∀ (s t : State) (v : Word), Presents s (wr 0x004 v) → v.getLsbD 1 = true → step s = .next t → irq t.core = false)
    ∧ (∀ s t : State, s.inputs.head? = some .assertRst → step s = .next t → irq t.core = false)
    ∧ (∀ (s t : State) (q : Request), s.inputs.head? = some (.host q) → step s = .next t →
        ((∃ d, t.last = some { req := q, rdata := d, error := true }) → irq t.core = irq s.core)
        ∧ (t.core.ovr ≠ s.core.ovr → s.core.busy = true → q.off.toNat ≠ 0x004 → irq t.core = irq s.core))

/-! ## Whole-machine rules -/

/-- `Regs.wf` is the invariant of 10_state.md R23, with the zero tail of R30. -/
def Obligations.WellFormedRegsAreTheSpecsInvariant : Prop :=
  ∀ r : Regs, r.wf = true ↔
    ((r.busy = true ↔ r.pending ≠ none)
      ∧ (r.busy = true → r.done = false ∧ r.err = 0)
      ∧ (r.kv = false ↔ r.nk = 0) ∧ (r.kv = false ↔ r.nr = 0)
      ∧ (r.kv = true → (r.nk, r.nr) ∈ [(4#4, 10#4), (6#4, 12#4), (8#4, 14#4)])
      ∧ (r.kv = true → ∀ j : Fin 240, (r.nr.toNat + 1) * 16 ≤ j.val → r.w[j] = 0)
      ∧ r.err ∈ [0#4, 1#4, 2#4, 3#4, 4#4])

/-- The invariant holds at reset. -/
def Obligations.InvariantHoldsAtReset : Prop := Invariant State.reset

/-- Every step keeps the invariant, from every state that has it: 10_state.md R23 with R30, and what acceptance checked
of the command in flight. -/
def Obligations.EveryStepKeepsTheInvariant : Prop :=
  ∀ s t : State, Invariant s → step s = .next t → Invariant t

/-- From every state with the invariant the machine goes on: no fault, no refusal, in particular "once accepted, a command
cannot fail" (60_exceptions.md R122). -/
def Obligations.NoStepStopsUnderTheInvariant : Prop :=
  ∀ s : State, Invariant s → ∃ t, step s = .next t

/-- A command in flight completes in the core's next step: BUSY falls, DONE rises, ERR stays 0 and nothing is pending
(43_cipher_pipelines.md R117). That the core's step also comes when the schedule is empty is the model's choice (log entry 1),
standing for the weak fairness of R117. A core that hangs is not in the model. -/
def Obligations.CommandInFlightCompletes : Prop :=
  ∀ s : State, Invariant s → CoreMoves s → ∃ t, step s = .next t ∧ t.core.busy = false ∧ t.core.done = true
    ∧ t.core.err = 0 ∧ t.core.pending = none

/-- What a command leaves unchanged, at either turn: KEY, KEYLEN, IE, and everything beside the core. OVR changes only when
the command is dropped. W, NK, NR and KV change only by KEYEXP, at its completion. STATE changes only at a completion, and
not by KEYEXP (30_encoding.md R69, 10_state.md R27, R28). -/
def Obligations.CommandFrame : Prop :=
  ∀ (i : Instr) (s t : State), exec i s = .next t →
    t.core.key = s.core.key ∧ t.core.keyLen = s.core.keyLen ∧ t.core.ie = s.core.ie
    ∧ (s.core.busy = false ∨ s.turn = .core → t.core.ovr = s.core.ovr)
    ∧ (i ≠ .keyExp ∨ s.turn = .host →
        t.core.w = s.core.w ∧ t.core.nk = s.core.nk ∧ t.core.nr = s.core.nr ∧ t.core.kv = s.core.kv)
    ∧ (i = .keyExp ∨ s.turn = .host → t.core.block = s.core.block)
    ∧ t.rst = s.rst ∧ t.inputs = s.inputs ∧ t.turn = s.turn ∧ t.last = s.last ∧ t.hostFault = s.hostFault
    ∧ t.draws = s.draws

/-- W, NK, NR and KV change in no step but reset and the completion of a KEYEXP. In particular a write to KEY or KEYLEN
leaves the held key (10_state.md R30, R36, R39, 70_reset_and_hazards.md R137). -/
def Obligations.HeldKeyChangesOnlyByKeyExpOrReset : Prop :=
  ∀ s t : State, step s = .next t → s.inputs.head? ≠ some .assertRst →
    ¬(CoreMoves s ∧ s.core.pending = some .keyExp) →
    t.core.w = s.core.w ∧ t.core.nk = s.core.nk ∧ t.core.nr = s.core.nr ∧ t.core.kv = s.core.kv

/-- KV is cleared only by reset (10_state.md R36). -/
def Obligations.KeyValidIsClearedOnlyByReset : Prop :=
  ∀ s t : State, step s = .next t → s.core.kv = true → t.core.kv = false → s.inputs.head? = some .assertRst

/-- OVR is set only by a write dropped while busy and cleared only by a STATUS write with bit 3 set and by reset
(10_state.md R37). -/
def Obligations.OverrunIsSticky : Prop :=
  ∀ s t : State, step s = .next t →
    (s.core.ovr = true → t.core.ovr = false →
      s.inputs.head? = some .assertRst ∨ ∃ v, Presents s (wr 0x004 v) ∧ v.getLsbD 3 = true)
    ∧ (s.core.ovr = false → t.core.ovr = true →
        s.core.busy = true ∧ ∃ m v, 2 ≤ m ∧ m ≤ 15 ∧ Presents s (wr (BitVec.ofNat 9 (4 * m)) v))

/-- While a command is in flight its operands stay as they were: a step that does not complete it and is not reset keeps
STATE, KEY, KEYLEN, W, NR and PENDING (20_memory.md R66). -/
def Obligations.OperandsStayWhileBusy : Prop :=
  ∀ s t : State, step s = .next t → s.core.busy = true → ¬CoreMoves s → s.inputs.head? ≠ some .assertRst →
    t.core.block = s.core.block ∧ t.core.key = s.core.key ∧ t.core.keyLen = s.core.keyLen ∧ t.core.w = s.core.w
    ∧ t.core.nr = s.core.nr ∧ t.core.pending = s.core.pending ∧ t.core.busy = true

/-- The program's fault bit, once set, stays set in every step (60_exceptions.md R121: "never cleared"). That reset does not
clear it either is the model's choice (log entries 4 and 6): no rule says so. -/
def Obligations.HostFaultIsNeverCleared : Prop :=
  ∀ s t : State, step s = .next t → s.hostFault = true → t.hostFault = true

/-! ## Host programs -/

/-- LDKEY and LDSTATE put their bytes, in order, into KEY and STATE of an idle core, and change no other register: the
expansions of 30_encoding.md R75, run transaction by transaction. -/
def Obligations.LoadPseudoInstructionsLoadTheirBytes : Prop :=
  ∀ (s : State) (bs : List Byte), s.core.busy = false → s.rst = false →
    (bs.length ∈ [16, 24, 32] → ∃ (t : State) (k : KeyBytes),
      runProgram (List.replicate (bs.length / 4) .host) (Pseudo.ldKey bs).expand s = .next t
      ∧ t.core = { s.core with key := k }
      ∧ (∀ j, j < 32 → k[j]? = if j < bs.length then bs[j]? else s.core.key[j]?)
      ∧ t.inputs = s.inputs ∧ t.rst = s.rst ∧ t.hostFault = s.hostFault ∧ t.draws = s.draws)
    ∧ (bs.length = 16 → ∃ (t : State) (b : Block),
      runProgram (List.replicate 4 .host) (Pseudo.ldState bs).expand s = .next t
      ∧ t.core = { s.core with block := b } ∧ (∀ j, j < 16 → b[j]? = bs[j]?)
      ∧ t.inputs = s.inputs ∧ t.rst = s.rst ∧ t.hostFault = s.hostFault ∧ t.draws = s.draws)

/-- WAIT loops exactly while the core is busy: its STATUS read changes no register and sends the program back to it if BUSY
is 1, on to the next line if BUSY is 0 (30_encoding.md R75). -/
def Obligations.WaitLoopsExactlyWhileBusy : Prop :=
  ∀ (s : State) (ls : List HostLine), Presents s HostLine.wait.request →
    ∃ t, step s = .next t ∧ t.core = s.core ∧ t.hostFault = s.hostFault
      ∧ HostLine.wait.linesAfter ls t = if s.core.busy then .wait :: ls else ls
end

