-- ==== Sys2Proof/Laws/Bytes.lean ====
section
/-! SUPPORT. What the byte registers and the byte lanes do, said once: bytes of `tabulate`, of `setWordAt`, of each transform, and `LE32` against its lanes (spec/20_memory.md R52, R57, R58). -/

namespace Sys2Proof.Machine

/-- A byte of a tabulated register. -/
@[simp] theorem byteAt_tabulate (n : Nat) (f : Nat → Byte) (j : Nat) :
    byteAt (tabulate n f) j = if j < n then f j else 0 := by
  unfold byteAt
  split <;> simp_all [tabulate]

/-- `byteAt` inside the register is the register's byte. -/
theorem byteAt_eq_getElem {n : Nat} (v : Vector Byte n) {j : Nat} (h : j < n) : byteAt v j = v[j] := by
  simp [byteAt, h]

/-- The optional byte of a register is `byteAt` inside it. -/
theorem getElem?_eq_some_byteAt {n : Nat} (v : Vector Byte n) {j : Nat} (h : j < n) : v[j]? = some (byteAt v j) := by
  simp [byteAt, h]

/-- Two byte registers with the same bytes are equal. -/
theorem ext_byteAt {n : Nat} {v u : Vector Byte n} (h : ∀ j, j < n → byteAt v j = byteAt u j) : v = u := by
  apply Vector.ext
  intro j hj
  have := h j hj
  simpa [byteAt, hj] using this

/-- A byte after a word of the register is written (20_memory.md R58). -/
@[simp] theorem byteAt_setWordAt {n : Nat} (v : Vector Byte n) (m : Nat) (x : Word) (j : Nat) :
    byteAt (setWordAt v m x) j = if j < n then (if j / 4 = m then lane x (j % 4) else byteAt v j) else 0 := by
  simp [setWordAt]

/-- Every lane of a `LE32` value is its byte (20_memory.md R52). -/
theorem lane_le32 (b0 b1 b2 b3 : Byte) :
    lane (le32 b0 b1 b2 b3) 0 = b0 ∧ lane (le32 b0 b1 b2 b3) 1 = b1
      ∧ lane (le32 b0 b1 b2 b3) 2 = b2 ∧ lane (le32 b0 b1 b2 b3) 3 = b3 := by
  refine ⟨?_, ?_, ?_, ?_⟩ <;>
  · apply BitVec.eq_of_getLsbD_eq
    intro i hi
    have h8 : i = 0 ∨ i = 1 ∨ i = 2 ∨ i = 3 ∨ i = 4 ∨ i = 5 ∨ i = 6 ∨ i = 7 := by omega
    rcases h8 with h | h | h | h | h | h | h | h <;> subst h <;> simp [lane, le32]

/-- A 32-bit value is the `LE32` of its lanes (20_memory.md R52). -/
theorem le32_lanes (v : Word) : le32 (lane v 0) (lane v 1) (lane v 2) (lane v 3) = v := by
  apply BitVec.eq_of_getLsbD_eq
  intro i hi
  interval_cases i <;> simp [lane, le32]

/-- Reading back a word just written (20_memory.md R57, R58). -/
theorem wordAt_setWordAt {n : Nat} (v : Vector Byte n) {m : Nat} (x : Word) (h : 4 * m + 3 < n) :
    wordAt (setWordAt v m x) m = x := by
  have e1 : (4 * m + 1) / 4 = m := by omega
  have e2 : (4 * m + 2) / 4 = m := by omega
  have e3 : (4 * m + 3) / 4 = m := by omega
  have l0 : 4 * m < n := by omega
  have l1 : 4 * m + 1 < n := by omega
  have l2 : 4 * m + 2 < n := by omega
  simp [wordAt, e1, e2, e3, l0, l1, l2, h]
  exact le32_lanes x

/-! ### The bytes of each transform (42_round_transforms.md R94 to R106) -/

@[simp] theorem byteAt_subBytes (s : Block) (i : Nat) :
    byteAt (subBytes s) i = if i < 16 then sbox (byteAt s i) else 0 := by simp [subBytes]

@[simp] theorem byteAt_invSubBytes (s : Block) (i : Nat) :
    byteAt (invSubBytes s) i = if i < 16 then invSbox (byteAt s i) else 0 := by simp [invSubBytes]

@[simp] theorem byteAt_shiftRows (s : Block) (i : Nat) :
    byteAt (shiftRows s) i = if i < 16 then byteAt s (i % 4 + 4 * ((i / 4 + i % 4) % 4)) else 0 := by
  simp [shiftRows]

@[simp] theorem byteAt_invShiftRows (s : Block) (i : Nat) :
    byteAt (invShiftRows s) i = if i < 16 then byteAt s (i % 4 + 4 * ((i / 4 + 4 - i % 4) % 4)) else 0 := by
  simp [invShiftRows]

@[simp] theorem byteAt_mixColumns (s : Block) (i : Nat) :
    byteAt (mixColumns s) i = if i < 16 then mixByte (i % 4) (byteAt s (4 * (i / 4))) (byteAt s (1 + 4 * (i / 4)))
      (byteAt s (2 + 4 * (i / 4))) (byteAt s (3 + 4 * (i / 4))) else 0 := by
  simp [mixColumns, mapColumns]

@[simp] theorem byteAt_invMixColumns (s : Block) (i : Nat) :
    byteAt (invMixColumns s) i = if i < 16 then invMixByte (i % 4) (byteAt s (4 * (i / 4))) (byteAt s (1 + 4 * (i / 4)))
      (byteAt s (2 + 4 * (i / 4))) (byteAt s (3 + 4 * (i / 4))) else 0 := by
  simp [invMixColumns, mapColumns]

@[simp] theorem byteAt_roundKey (w : ExpandedKey) (round i : Nat) :
    byteAt (roundKey w round) i = if i < 16 then byteAt w (16 * round + i) else 0 := by
  simp [roundKey]

@[simp] theorem byteAt_xorBlock (s t : Block) (i : Nat) :
    byteAt (xorBlock s t) i = if i < 16 then byteAt s i ^^^ byteAt t i else 0 := by
  simp [xorBlock]

@[simp] theorem byteAt_addRoundKey (s : Block) (w : ExpandedKey) (round i : Nat) :
    byteAt (addRoundKey s w round) i = if i < 16 then byteAt s i ^^^ byteAt w (16 * round + i) else 0 := by
  by_cases h : i < 16 <;> simp [addRoundKey, h]

@[simp] theorem byteAt_loadExpansion (nr : Nat) (e : List Byte) (j : Nat) :
    byteAt (loadExpansion nr e) j = if j < 240 then (if j < 16 * (nr + 1) then e.getD j 0 else 0) else 0 := by
  simp [loadExpansion]

/-! ### The pipelines as their stages (43_cipher_pipelines.md R109, R110) -/

/-- The forward pipeline: first key, the Nr - 1 rounds, last round without MixColumns. -/
theorem cipher_eq (p : Block) (w : ExpandedKey) (nr : Nat) :
    cipher p w nr = addRoundKey (shiftRows (subBytes
      ((List.range' 1 (nr - 1)).foldl (cipherRound w) (addRoundKey p w 0)))) w nr := rfl

/-- The inverse pipeline: last key, the Nr - 1 rounds, first key. -/
theorem invCipher_eq (p : Block) (w : ExpandedKey) (nr : Nat) :
    invCipher p w nr = addRoundKey ((List.range' 1 (nr - 1)).foldl (invCipherRound w nr)
      (invSubBytes (invShiftRows (addRoundKey p w nr)))) w 0 := rfl

end Sys2Proof.Machine
end

