-- ==== Sys2Proof/Laws/State.lean ====
section
/-! SUPPORT. One simp lemma per field and named update of the state, each true by definition, so that no proof unfolds a record update. -/

namespace Sys2Proof.Machine

section RegsFields

variable (r : Regs)

/-! ### Fields after `writeCtrl` -/

@[simp] theorem writeCtrl_ie (v : Word) : (writeCtrl v r).ie = v.getLsbD 0 := rfl
@[simp] theorem writeCtrl_busy (v : Word) : (writeCtrl v r).busy = r.busy := rfl
@[simp] theorem writeCtrl_done (v : Word) : (writeCtrl v r).done = r.done := rfl
@[simp] theorem writeCtrl_kv (v : Word) : (writeCtrl v r).kv = r.kv := rfl
@[simp] theorem writeCtrl_ovr (v : Word) : (writeCtrl v r).ovr = r.ovr := rfl
@[simp] theorem writeCtrl_err (v : Word) : (writeCtrl v r).err = r.err := rfl
@[simp] theorem writeCtrl_nk (v : Word) : (writeCtrl v r).nk = r.nk := rfl
@[simp] theorem writeCtrl_nr (v : Word) : (writeCtrl v r).nr = r.nr := rfl
@[simp] theorem writeCtrl_keyLen (v : Word) : (writeCtrl v r).keyLen = r.keyLen := rfl
@[simp] theorem writeCtrl_key (v : Word) : (writeCtrl v r).key = r.key := rfl
@[simp] theorem writeCtrl_block (v : Word) : (writeCtrl v r).block = r.block := rfl
@[simp] theorem writeCtrl_w (v : Word) : (writeCtrl v r).w = r.w := rfl
@[simp] theorem writeCtrl_pending (v : Word) : (writeCtrl v r).pending = r.pending := rfl

/-! ### Fields after `writeStatus` -/

@[simp] theorem writeStatus_ie (v : Word) : (writeStatus v r).ie = r.ie := rfl
@[simp] theorem writeStatus_busy (v : Word) : (writeStatus v r).busy = r.busy := rfl
@[simp] theorem writeStatus_done (v : Word) : (writeStatus v r).done = if v.getLsbD 1 then false else r.done := rfl
@[simp] theorem writeStatus_kv (v : Word) : (writeStatus v r).kv = r.kv := rfl
@[simp] theorem writeStatus_ovr (v : Word) : (writeStatus v r).ovr = if v.getLsbD 3 then false else r.ovr := rfl
@[simp] theorem writeStatus_err (v : Word) : (writeStatus v r).err = if v.getLsbD 1 then 0 else r.err := rfl
@[simp] theorem writeStatus_nk (v : Word) : (writeStatus v r).nk = r.nk := rfl
@[simp] theorem writeStatus_nr (v : Word) : (writeStatus v r).nr = r.nr := rfl
@[simp] theorem writeStatus_keyLen (v : Word) : (writeStatus v r).keyLen = r.keyLen := rfl
@[simp] theorem writeStatus_key (v : Word) : (writeStatus v r).key = r.key := rfl
@[simp] theorem writeStatus_block (v : Word) : (writeStatus v r).block = r.block := rfl
@[simp] theorem writeStatus_w (v : Word) : (writeStatus v r).w = r.w := rfl
@[simp] theorem writeStatus_pending (v : Word) : (writeStatus v r).pending = r.pending := rfl

/-! ### Fields after `markDropped` -/

@[simp] theorem markDropped_ie : (markDropped r).ie = r.ie := rfl
@[simp] theorem markDropped_busy : (markDropped r).busy = r.busy := rfl
@[simp] theorem markDropped_done : (markDropped r).done = r.done := rfl
@[simp] theorem markDropped_kv : (markDropped r).kv = r.kv := rfl
@[simp] theorem markDropped_ovr : (markDropped r).ovr = true := rfl
@[simp] theorem markDropped_err : (markDropped r).err = r.err := rfl
@[simp] theorem markDropped_nk : (markDropped r).nk = r.nk := rfl
@[simp] theorem markDropped_nr : (markDropped r).nr = r.nr := rfl
@[simp] theorem markDropped_keyLen : (markDropped r).keyLen = r.keyLen := rfl
@[simp] theorem markDropped_key : (markDropped r).key = r.key := rfl
@[simp] theorem markDropped_block : (markDropped r).block = r.block := rfl
@[simp] theorem markDropped_w : (markDropped r).w = r.w := rfl
@[simp] theorem markDropped_pending : (markDropped r).pending = r.pending := rfl

/-! ### Fields after `markError` -/

@[simp] theorem markError_ie (e : CmdError) : (markError e r).ie = r.ie := rfl
@[simp] theorem markError_busy (e : CmdError) : (markError e r).busy = r.busy := rfl
@[simp] theorem markError_done (e : CmdError) : (markError e r).done = true := rfl
@[simp] theorem markError_kv (e : CmdError) : (markError e r).kv = r.kv := rfl
@[simp] theorem markError_ovr (e : CmdError) : (markError e r).ovr = r.ovr := rfl
@[simp] theorem markError_err (e : CmdError) : (markError e r).err = e.code := rfl
@[simp] theorem markError_nk (e : CmdError) : (markError e r).nk = r.nk := rfl
@[simp] theorem markError_nr (e : CmdError) : (markError e r).nr = r.nr := rfl
@[simp] theorem markError_keyLen (e : CmdError) : (markError e r).keyLen = r.keyLen := rfl
@[simp] theorem markError_key (e : CmdError) : (markError e r).key = r.key := rfl
@[simp] theorem markError_block (e : CmdError) : (markError e r).block = r.block := rfl
@[simp] theorem markError_w (e : CmdError) : (markError e r).w = r.w := rfl
@[simp] theorem markError_pending (e : CmdError) : (markError e r).pending = r.pending := rfl

/-! ### Fields after `markAccepted` -/

@[simp] theorem markAccepted_ie (i : Instr) : (markAccepted i r).ie = r.ie := rfl
@[simp] theorem markAccepted_busy (i : Instr) : (markAccepted i r).busy = true := rfl
@[simp] theorem markAccepted_done (i : Instr) : (markAccepted i r).done = false := rfl
@[simp] theorem markAccepted_kv (i : Instr) : (markAccepted i r).kv = r.kv := rfl
@[simp] theorem markAccepted_ovr (i : Instr) : (markAccepted i r).ovr = r.ovr := rfl
@[simp] theorem markAccepted_err (i : Instr) : (markAccepted i r).err = 0 := rfl
@[simp] theorem markAccepted_nk (i : Instr) : (markAccepted i r).nk = r.nk := rfl
@[simp] theorem markAccepted_nr (i : Instr) : (markAccepted i r).nr = r.nr := rfl
@[simp] theorem markAccepted_keyLen (i : Instr) : (markAccepted i r).keyLen = r.keyLen := rfl
@[simp] theorem markAccepted_key (i : Instr) : (markAccepted i r).key = r.key := rfl
@[simp] theorem markAccepted_block (i : Instr) : (markAccepted i r).block = r.block := rfl
@[simp] theorem markAccepted_w (i : Instr) : (markAccepted i r).w = r.w := rfl
@[simp] theorem markAccepted_pending (i : Instr) : (markAccepted i r).pending = some i := rfl

/-! ### Fields after `markCompleted` -/

@[simp] theorem markCompleted_ie : (markCompleted r).ie = r.ie := rfl
@[simp] theorem markCompleted_busy : (markCompleted r).busy = false := rfl
@[simp] theorem markCompleted_done : (markCompleted r).done = true := rfl
@[simp] theorem markCompleted_kv : (markCompleted r).kv = r.kv := rfl
@[simp] theorem markCompleted_ovr : (markCompleted r).ovr = r.ovr := rfl
@[simp] theorem markCompleted_err : (markCompleted r).err = r.err := rfl
@[simp] theorem markCompleted_nk : (markCompleted r).nk = r.nk := rfl
@[simp] theorem markCompleted_nr : (markCompleted r).nr = r.nr := rfl
@[simp] theorem markCompleted_keyLen : (markCompleted r).keyLen = r.keyLen := rfl
@[simp] theorem markCompleted_key : (markCompleted r).key = r.key := rfl
@[simp] theorem markCompleted_block : (markCompleted r).block = r.block := rfl
@[simp] theorem markCompleted_w : (markCompleted r).w = r.w := rfl
@[simp] theorem markCompleted_pending : (markCompleted r).pending = none := rfl

/-! ### Fields after `setKeyLen` -/

@[simp] theorem setKeyLen_ie (v : Word) : (setKeyLen v r).ie = r.ie := rfl
@[simp] theorem setKeyLen_busy (v : Word) : (setKeyLen v r).busy = r.busy := rfl
@[simp] theorem setKeyLen_done (v : Word) : (setKeyLen v r).done = r.done := rfl
@[simp] theorem setKeyLen_kv (v : Word) : (setKeyLen v r).kv = r.kv := rfl
@[simp] theorem setKeyLen_ovr (v : Word) : (setKeyLen v r).ovr = r.ovr := rfl
@[simp] theorem setKeyLen_err (v : Word) : (setKeyLen v r).err = r.err := rfl
@[simp] theorem setKeyLen_nk (v : Word) : (setKeyLen v r).nk = r.nk := rfl
@[simp] theorem setKeyLen_nr (v : Word) : (setKeyLen v r).nr = r.nr := rfl
@[simp] theorem setKeyLen_keyLen (v : Word) : (setKeyLen v r).keyLen = v.setWidth 8 := rfl
@[simp] theorem setKeyLen_key (v : Word) : (setKeyLen v r).key = r.key := rfl
@[simp] theorem setKeyLen_block (v : Word) : (setKeyLen v r).block = r.block := rfl
@[simp] theorem setKeyLen_w (v : Word) : (setKeyLen v r).w = r.w := rfl
@[simp] theorem setKeyLen_pending (v : Word) : (setKeyLen v r).pending = r.pending := rfl

/-! ### Fields after `setBlockWord` -/

@[simp] theorem setBlockWord_ie (m : Nat) (v : Word) : (setBlockWord m v r).ie = r.ie := rfl
@[simp] theorem setBlockWord_busy (m : Nat) (v : Word) : (setBlockWord m v r).busy = r.busy := rfl
@[simp] theorem setBlockWord_done (m : Nat) (v : Word) : (setBlockWord m v r).done = r.done := rfl
@[simp] theorem setBlockWord_kv (m : Nat) (v : Word) : (setBlockWord m v r).kv = r.kv := rfl
@[simp] theorem setBlockWord_ovr (m : Nat) (v : Word) : (setBlockWord m v r).ovr = r.ovr := rfl
@[simp] theorem setBlockWord_err (m : Nat) (v : Word) : (setBlockWord m v r).err = r.err := rfl
@[simp] theorem setBlockWord_nk (m : Nat) (v : Word) : (setBlockWord m v r).nk = r.nk := rfl
@[simp] theorem setBlockWord_nr (m : Nat) (v : Word) : (setBlockWord m v r).nr = r.nr := rfl
@[simp] theorem setBlockWord_keyLen (m : Nat) (v : Word) : (setBlockWord m v r).keyLen = r.keyLen := rfl
@[simp] theorem setBlockWord_key (m : Nat) (v : Word) : (setBlockWord m v r).key = r.key := rfl
@[simp] theorem setBlockWord_block (m : Nat) (v : Word) : (setBlockWord m v r).block = setWordAt r.block m v := rfl
@[simp] theorem setBlockWord_w (m : Nat) (v : Word) : (setBlockWord m v r).w = r.w := rfl
@[simp] theorem setBlockWord_pending (m : Nat) (v : Word) : (setBlockWord m v r).pending = r.pending := rfl

/-! ### Fields after `setKeyWord` -/

@[simp] theorem setKeyWord_ie (m : Nat) (v : Word) : (setKeyWord m v r).ie = r.ie := rfl
@[simp] theorem setKeyWord_busy (m : Nat) (v : Word) : (setKeyWord m v r).busy = r.busy := rfl
@[simp] theorem setKeyWord_done (m : Nat) (v : Word) : (setKeyWord m v r).done = r.done := rfl
@[simp] theorem setKeyWord_kv (m : Nat) (v : Word) : (setKeyWord m v r).kv = r.kv := rfl
@[simp] theorem setKeyWord_ovr (m : Nat) (v : Word) : (setKeyWord m v r).ovr = r.ovr := rfl
@[simp] theorem setKeyWord_err (m : Nat) (v : Word) : (setKeyWord m v r).err = r.err := rfl
@[simp] theorem setKeyWord_nk (m : Nat) (v : Word) : (setKeyWord m v r).nk = r.nk := rfl
@[simp] theorem setKeyWord_nr (m : Nat) (v : Word) : (setKeyWord m v r).nr = r.nr := rfl
@[simp] theorem setKeyWord_keyLen (m : Nat) (v : Word) : (setKeyWord m v r).keyLen = r.keyLen := rfl
@[simp] theorem setKeyWord_key (m : Nat) (v : Word) : (setKeyWord m v r).key = setWordAt r.key m v := rfl
@[simp] theorem setKeyWord_block (m : Nat) (v : Word) : (setKeyWord m v r).block = r.block := rfl
@[simp] theorem setKeyWord_w (m : Nat) (v : Word) : (setKeyWord m v r).w = r.w := rfl
@[simp] theorem setKeyWord_pending (m : Nat) (v : Word) : (setKeyWord m v r).pending = r.pending := rfl

end RegsFields

section StateFields

variable (s : State)

/-! ### Fields after `State.withCore` -/

@[simp] theorem State.withCore_core (r : Regs) : (s.withCore r).core = r := rfl
@[simp] theorem State.withCore_rst (r : Regs) : (s.withCore r).rst = s.rst := rfl
@[simp] theorem State.withCore_inputs (r : Regs) : (s.withCore r).inputs = s.inputs := rfl
@[simp] theorem State.withCore_turn (r : Regs) : (s.withCore r).turn = s.turn := rfl
@[simp] theorem State.withCore_last (r : Regs) : (s.withCore r).last = s.last := rfl
@[simp] theorem State.withCore_hostFault (r : Regs) : (s.withCore r).hostFault = s.hostFault := rfl
@[simp] theorem State.withCore_draws (r : Regs) : (s.withCore r).draws = s.draws := rfl

/-! ### Fields after `State.withTurn` -/

@[simp] theorem State.withTurn_core (a : Agent) : (s.withTurn a).core = s.core := rfl
@[simp] theorem State.withTurn_rst (a : Agent) : (s.withTurn a).rst = s.rst := rfl
@[simp] theorem State.withTurn_inputs (a : Agent) : (s.withTurn a).inputs = s.inputs := rfl
@[simp] theorem State.withTurn_turn (a : Agent) : (s.withTurn a).turn = a := rfl
@[simp] theorem State.withTurn_last (a : Agent) : (s.withTurn a).last = s.last := rfl
@[simp] theorem State.withTurn_hostFault (a : Agent) : (s.withTurn a).hostFault = s.hostFault := rfl
@[simp] theorem State.withTurn_draws (a : Agent) : (s.withTurn a).draws = s.draws := rfl

/-! ### Fields after `State.withInputs` -/

@[simp] theorem State.withInputs_core (es : List Event) : (s.withInputs es).core = s.core := rfl
@[simp] theorem State.withInputs_rst (es : List Event) : (s.withInputs es).rst = s.rst := rfl
@[simp] theorem State.withInputs_inputs (es : List Event) : (s.withInputs es).inputs = es := rfl
@[simp] theorem State.withInputs_turn (es : List Event) : (s.withInputs es).turn = s.turn := rfl
@[simp] theorem State.withInputs_last (es : List Event) : (s.withInputs es).last = s.last := rfl
@[simp] theorem State.withInputs_hostFault (es : List Event) : (s.withInputs es).hostFault = s.hostFault := rfl
@[simp] theorem State.withInputs_draws (es : List Event) : (s.withInputs es).draws = s.draws := rfl

/-! ### Fields after `State.answer` -/

@[simp] theorem State.answer_core (q : Request) (d : Option Word) : (s.answer q d).core = s.core := rfl
@[simp] theorem State.answer_rst (q : Request) (d : Option Word) : (s.answer q d).rst = s.rst := rfl
@[simp] theorem State.answer_inputs (q : Request) (d : Option Word) : (s.answer q d).inputs = s.inputs := rfl
@[simp] theorem State.answer_turn (q : Request) (d : Option Word) : (s.answer q d).turn = s.turn := rfl
@[simp] theorem State.answer_last (q : Request) (d : Option Word) : (s.answer q d).last = some { req := q, rdata := d, error := false } := rfl
@[simp] theorem State.answer_hostFault (q : Request) (d : Option Word) : (s.answer q d).hostFault = s.hostFault := rfl
@[simp] theorem State.answer_draws (q : Request) (d : Option Word) : (s.answer q d).draws = s.draws := rfl

/-! ### Fields after `State.refuse` -/

@[simp] theorem State.refuse_core (q : Request) : (s.refuse q).core = s.core := rfl
@[simp] theorem State.refuse_rst (q : Request) : (s.refuse q).rst = s.rst := rfl
@[simp] theorem State.refuse_inputs (q : Request) : (s.refuse q).inputs = s.inputs := rfl
@[simp] theorem State.refuse_turn (q : Request) : (s.refuse q).turn = s.turn := rfl
@[simp] theorem State.refuse_last (q : Request) : (s.refuse q).last = some { req := q, rdata := if q.write then none else some 0, error := true } := rfl
@[simp] theorem State.refuse_hostFault (q : Request) : (s.refuse q).hostFault = true := rfl
@[simp] theorem State.refuse_draws (q : Request) : (s.refuse q).draws = s.draws := rfl

/-! ### Fields after `State.drawn` -/

@[simp] theorem State.drawn_core : (s.drawn).core = s.core := rfl
@[simp] theorem State.drawn_rst : (s.drawn).rst = s.rst := rfl
@[simp] theorem State.drawn_inputs : (s.drawn).inputs = s.inputs := rfl
@[simp] theorem State.drawn_turn : (s.drawn).turn = s.turn := rfl
@[simp] theorem State.drawn_last : (s.drawn).last = s.last := rfl
@[simp] theorem State.drawn_hostFault : (s.drawn).hostFault = s.hostFault := rfl
@[simp] theorem State.drawn_draws : (s.drawn).draws = s.draws + 1 := rfl

/-! ### Fields after `State.assertRst` -/

@[simp] theorem State.assertRst_core : (s.assertRst).core = Regs.reset := rfl
@[simp] theorem State.assertRst_rst : (s.assertRst).rst = true := rfl
@[simp] theorem State.assertRst_inputs : (s.assertRst).inputs = s.inputs := rfl
@[simp] theorem State.assertRst_turn : (s.assertRst).turn = s.turn := rfl
@[simp] theorem State.assertRst_last : (s.assertRst).last = s.last := rfl
@[simp] theorem State.assertRst_hostFault : (s.assertRst).hostFault = s.hostFault := rfl
@[simp] theorem State.assertRst_draws : (s.assertRst).draws = s.draws := rfl

/-! ### Fields after `State.releaseRst` -/

@[simp] theorem State.releaseRst_core : (s.releaseRst).core = s.core := rfl
@[simp] theorem State.releaseRst_rst : (s.releaseRst).rst = false := rfl
@[simp] theorem State.releaseRst_inputs : (s.releaseRst).inputs = s.inputs := rfl
@[simp] theorem State.releaseRst_turn : (s.releaseRst).turn = s.turn := rfl
@[simp] theorem State.releaseRst_last : (s.releaseRst).last = s.last := rfl
@[simp] theorem State.releaseRst_hostFault : (s.releaseRst).hostFault = s.hostFault := rfl
@[simp] theorem State.releaseRst_draws : (s.releaseRst).draws = s.draws := rfl

end StateFields

end Sys2Proof.Machine
end

