-- ==== Sys2Proof/Laws/Ops.lean ====
section
/-! SUPPORT. What each shared operation can do, said once: issuing, completing, a transaction, the core's step and a step of the machine (spec/60_exceptions.md R119, spec/43_cipher_pipelines.md R117, spec/20_memory.md R56 to R58). -/

namespace Sys2Proof.Machine

/-- Issuing drops the command, reports an error or accepts it: nothing else (60_exceptions.md R119). -/
theorem issue_cases (i : Instr) (check : Regs → Option CmdError) (s : State) :
    (s.core.busy = true ∧ issue i check s = s.withCore (markDropped s.core))
    ∨ (s.core.busy = false ∧ ∃ e, check s.core = some e ∧ issue i check s = s.withCore (markError e s.core))
    ∨ (s.core.busy = false ∧ check s.core = none ∧ issue i check s = s.withCore (markAccepted i s.core)) := by
  unfold issue
  cases hb : s.core.busy
  · cases hc : check s.core with
    | none => simp
    | some e => simp [raiseCmdError]
  · simp

/-- A value that is no command is dropped or reported (60_exceptions.md R119). -/
theorem issueIllegal_cases (s : State) :
    (s.core.busy = true ∧ issueIllegal s = s.withCore (markDropped s.core))
    ∨ (s.core.busy = false ∧ issueIllegal s = s.withCore (markError .illegalCommand s.core)) := by
  unfold issueIllegal
  cases hb : s.core.busy <;> simp [raiseCmdError]

/-- A completed command applied its effect and freed the core (43_cipher_pipelines.md R117). -/
theorem complete_next {effect : Regs → Except Fault Regs} {s t : State} (h : complete effect s = .next t) :
    ∃ r, effect s.core = .ok r ∧ t = s.withCore (markCompleted r) := by
  unfold complete at h
  split at h
  · exact ⟨_, ‹_›, by simpa using h.symm⟩
  · simp at h

/-- At the host's turn a command is issued. -/
theorem runCommand_host {i : Instr} {check : Regs → Option CmdError} {effect : Regs → Except Fault Regs} {s : State}
    (h : s.turn = .host) : runCommand i check effect s = .next (issue i check s) := by
  simp [runCommand, h]

/-- At the core's turn a command completes. -/
theorem runCommand_core {i : Instr} {check : Regs → Option CmdError} {effect : Regs → Except Fault Regs} {s : State}
    (h : s.turn = .core) : runCommand i check effect s = complete effect s := by
  simp [runCommand, h]

/-- The acceptance check of each command (60_exceptions.md R119). -/
def checkOf : Instr → Regs → Option CmdError
  | .keyExp => checkKeyLength
  | .encrypt => checkKeyHeld
  | .decrypt => checkKeyHeld
  | .subBytes => checkNone
  | .invSubBytes => checkNone
  | .shiftRows => checkNone
  | .invShiftRows => checkNone
  | .mixColumns => checkNone
  | .invMixColumns => checkNone
  | .addRoundKey n => checkRound n

/-- The effect of each command (43_cipher_pipelines.md R117). -/
def effectOf : Instr → Regs → Except Fault Regs
  | .keyExp => keyExpEffect
  | .encrypt => pipelineEffect cipher
  | .decrypt => pipelineEffect invCipher
  | .subBytes => blockEffect subBytes
  | .invSubBytes => blockEffect invSubBytes
  | .shiftRows => blockEffect shiftRows
  | .invShiftRows => blockEffect invShiftRows
  | .mixColumns => blockEffect mixColumns
  | .invMixColumns => blockEffect invMixColumns
  | .addRoundKey n => addRoundKeyEffect n

/-- Every command is its check and its effect over one shared operation. -/
theorem exec_eq_runCommand (i : Instr) (s : State) : exec i s = runCommand i (checkOf i) (effectOf i) s := by
  cases i <;> rfl

/-- At the host's turn exec issues the command, by its check (60_exceptions.md R119). -/
theorem exec_host (i : Instr) {s : State} (h : s.turn = .host) : exec i s = .next (issue i (checkOf i) s) := by
  rw [exec_eq_runCommand, runCommand_host h]

/-- At the core's turn exec completes the command, by its effect (43_cipher_pipelines.md R117). -/
theorem exec_core (i : Instr) {s : State} (h : s.turn = .core) : exec i s = complete (effectOf i) s := by
  rw [exec_eq_runCommand, runCommand_core h]

/-- A completion whose effect succeeds. -/
theorem complete_ok {effect : Regs → Except Fault Regs} {s : State} {r : Regs} (h : effect s.core = .ok r) :
    complete effect s = .next (s.withCore (markCompleted r)) := by
  simp [complete, h]

/-- A completion whose effect has none. -/
theorem complete_error {effect : Regs → Except Fault Regs} {s : State} {f : Fault} (h : effect s.core = .error f) :
    complete effect s = .fault f := by
  simp [complete, h]

/-- A command in flight is one its acceptance check passes (60_exceptions.md R122). -/
theorem pendingAccepted_iff (r : Regs) :
    pendingAccepted r = true ↔ ∀ i, r.pending = some i → checkOf i r = none := by
  unfold pendingAccepted
  split <;> simp_all [checkOf, checkNone]

/-- An effect that succeeds keeps every component but W, NK, NR, KV and STATE (30_encoding.md R69, column writes). -/
theorem effectOf_frame {i : Instr} {r r' : Regs} (h : effectOf i r = .ok r') :
    r'.ie = r.ie ∧ r'.busy = r.busy ∧ r'.done = r.done ∧ r'.ovr = r.ovr ∧ r'.err = r.err ∧ r'.keyLen = r.keyLen
      ∧ r'.key = r.key ∧ r'.pending = r.pending
      ∧ (i ≠ .keyExp → r'.w = r.w ∧ r'.nk = r.nk ∧ r'.nr = r.nr ∧ r'.kv = r.kv)
      ∧ (i = .keyExp → r'.block = r.block) := by
  cases i <;>
    simp only [effectOf, keyExpEffect, pipelineEffect, blockEffect, addRoundKeyEffect] at h <;>
    (try split at h) <;> simp_all <;> subst h <;> simp

/-- The bytes past the held key are zero (10_state.md R30). -/
theorem zeroTail_iff (r : Regs) :
    zeroTail r = true ↔ ∀ j, j < 240 → (r.nr.toNat + 1) * 16 ≤ j → byteAt r.w j = 0 := by
  simp only [zeroTail, List.all_eq_true, List.mem_range, Bool.or_eq_true, decide_eq_true_eq, beq_iff_eq]
  simp only [expandedBytes]
  constructor
  · intro h j hj hx
    rcases h j hj with h | h
    · omega
    · exact h
  · intro h j hj
    by_cases hx : j < (r.nr.toNat + 1) * 16
    · exact .inl hx
    · exact .inr (h j hj (by omega))

/-- What a step of the machine can be: the next event, or the core alone when none is left (20_memory.md R63). -/
theorem step_cases (s : State) :
    (∃ e es, s.inputs = e :: es ∧ step s = eventStep e (s.withInputs es))
    ∨ (s.inputs = [] ∧ step s = coreStep s) := by
  unfold step
  cases h : s.inputs with
  | nil => exact .inr ⟨rfl, rfl⟩
  | cons e es => exact .inl ⟨e, es, rfl, rfl⟩

/-- The core's step completes the command in flight, or there is none to complete (43_cipher_pipelines.md R117). -/
theorem coreStep_cases (s : State) :
    (s.core.busy = true ∧ s.rst = false ∧ ∃ i, s.core.pending = some i ∧ coreStep s = complete (effectOf i) (s.withTurn .core))
    ∨ (s.core.busy = true ∧ s.rst = false ∧ s.core.pending = none ∧ coreStep s = .fault .nothingPending)
    ∨ ((s.core.busy = false ∨ s.rst = true) ∧ coreStep s = .next s) := by
  unfold coreStep completionEnabled
  cases hb : s.core.busy <;> cases hr : s.rst <;> simp
  cases hp : s.core.pending with
  | none => simp
  | some i => simp [exec_eq_runCommand, runCommand]

/-- What a host transaction can do to the machine (20_memory.md R56 to R58, 60_exceptions.md R119): it always answers. -/
theorem hostStep_cases (q : Request) (s : State) :
    hostStep q s = .next (s.refuse q)
    ∨ (∃ g, acceptedReg s q = some g ∧ q.write = false ∧ hostStep q s = .next (readReg q g s))
    ∨ (∃ g, acceptedReg s q = some g ∧ q.write = true ∧ g ≠ .cmd
        ∧ hostStep q s = .next ((s.answer q none).withCore (writeReg g q.wdata s.core)))
    ∨ (acceptedReg s q = some .cmd ∧ q.write = true ∧ hostStep q s = writeCmd q.wdata (s.answer q none)) := by
  unfold hostStep writeAccepted
  cases ha : acceptedReg s q with
  | none => simp
  | some g =>
    cases hw : q.write
    · simp
    · by_cases hg : g = .cmd <;> simp [hg]

/-- What a write to CMD does at the host's turn: the value is issued or is illegal, and the write always answers
(60_exceptions.md R119). -/
theorem writeCmd_cases (v : Word) {s : State} (h : s.turn = .host) :
    (∃ i, decode v = .ok i ∧ writeCmd v s = .next (issue i (checkOf i) s))
    ∨ ((∃ e, decode v = .error e) ∧ writeCmd v s = .next (issueIllegal s)) := by
  unfold writeCmd
  cases hd : decode v with
  | ok i => exact .inl ⟨i, rfl, by simp [exec_eq_runCommand, runCommand_host h]⟩
  | error e => exact .inr ⟨⟨e, rfl⟩, rfl⟩

/-- A read changes no register of the core (20_memory.md R59). -/
@[simp] theorem readReg_core (q : Request) (g : Reg) (s : State) : (readReg q g s).core = s.core := by
  unfold readReg
  split <;> rfl

end Sys2Proof.Machine
end

