-- ==== Sys2Proof/Laws/HostProgram.lean ====
section
/-! SUPPORT. What one line of a host program does: a write of a KEY or a STATE word reaches its four bytes, and a run peels off one line at a time (spec/30_encoding.md R75, spec/20_memory.md R58). -/

namespace Sys2Proof.Machine

/-- The value a command's pseudo-instruction writes is the command's CMD word (30_encoding.md R67, R75). -/
theorem commandWord_eq_encode {i : Instr} (h : i.wf = true) : commandWord i = encode i := by
  cases i with
  | addRoundKey round =>
    simp only [Instr.wf, decide_eq_true_eq] at h
    interval_cases round <;> rfl
  | keyExp | encrypt | decrypt | subBytes | invSubBytes | shiftRows | invShiftRows | mixColumns | invMixColumns => rfl

/-- A write to KEYm of an idle core, and its frame (20_memory.md R58). -/
theorem hostStep_writeKey {m : Nat} (hm : m < 8) (x : Word) {s : State} (hb : s.core.busy = false) (hr : s.rst = false) :
    hostStep (wr (BitVec.ofNat 9 (0x20 + 4 * m)) x) s
      = .next ((s.answer (wr (BitVec.ofNat 9 (0x20 + 4 * m)) x) none).withCore (setKeyWord m x s.core)) := by
  interval_cases m <;>
    simp [hostStep, acceptedReg, wr, hr, hb, regAt, Reg.readOnly, writeAccepted, writeReg, writeUnlessBusy]

/-- A write to STATEm of an idle core, and its frame (20_memory.md R58). -/
theorem hostStep_writeState {m : Nat} (hm : m < 4) (x : Word) {s : State} (hb : s.core.busy = false)
    (hr : s.rst = false) :
    hostStep (wr (BitVec.ofNat 9 (0x10 + 4 * m)) x) s
      = .next ((s.answer (wr (BitVec.ofNat 9 (0x10 + 4 * m)) x) none).withCore (setBlockWord m x s.core)) := by
  interval_cases m <;>
    simp [hostStep, acceptedReg, wr, hr, hb, regAt, Reg.readOnly, writeAccepted, writeReg, writeUnlessBusy]

/-- A run whose host moves first issues the next line and goes on from its answer. -/
theorem runProgram_line {l : HostLine} {ls : List HostLine} {agents : List Agent} {s t : State}
    (h : hostStep l.request (s.withTurn .host) = .next t) :
    runProgram (.host :: agents) (l :: ls) s = runProgram agents (l.linesAfter ls t) t := by
  simp [runProgram, h]

/-- The program goes on from a line only to what comes after it, or back to a WAIT. -/
theorem HostLine.linesAfter_cases (l : HostLine) (ls : List HostLine) (t : State) :
    l.linesAfter ls t = ls ∨ l = .wait ∧ l.linesAfter ls t = .wait :: ls := by
  cases l
  · exact .inl rfl
  · unfold HostLine.linesAfter
    by_cases h : t.readValue.getLsbD 0 = true <;> simp [h]

end Sys2Proof.Machine
end

