-- ==== Sys2Proof/Laws/KeySchedule.lean ====
section
/-! SUPPORT. What the key-schedule recurrence does: it appends words, keeps the words it has, and reads only words it has (spec/41_key_schedule.md R89). -/

namespace Sys2Proof.Machine

/-- The recurrence yields n more words. -/
@[simp] theorem expandFrom_length (nk n : Nat) (ws : List KWord) : (expandFrom nk n ws).length = ws.length + n := by
  induction n generalizing ws with
  | zero => rfl
  | succ n ih => simp [expandFrom, ih]; omega

/-- The recurrence keeps the words it starts from. -/
theorem wordOf_expandFrom_old (nk n : Nat) (ws : List KWord) {i : Nat} (h : i < ws.length) :
    wordOf (expandFrom nk n ws) i = wordOf ws i := by
  induction n generalizing ws with
  | zero => rfl
  | succ n ih =>
    rw [expandFrom, ih _ (by simp; omega)]
    simp [wordOf, List.getElem?_append_left h]

/-- The recurrence in two parts. -/
theorem expandFrom_append (nk a b : Nat) (ws : List KWord) :
    expandFrom nk (a + b) ws = expandFrom nk b (expandFrom nk a ws) := by
  induction a generalizing ws with
  | zero => simp [expandFrom]
  | succ a ih =>
    rw [Nat.add_right_comm]
    simp only [expandFrom]
    exact ih _

/-- A derived word is `w[i-Nk] ^ temp` of the final words (41_key_schedule.md R89). -/
theorem wordOf_expandFrom_new (nk n : Nat) (ws : List KWord) (hk : 0 < nk) (hw : ws.length = nk) (i : Nat)
    (h1 : nk ≤ i) (h2 : i < nk + n) :
    wordOf (expandFrom nk n ws) i = xorWord (wordOf (expandFrom nk n ws) (i - nk))
      (scheduleTemp nk i (wordOf (expandFrom nk n ws) (i - 1))) := by
  obtain ⟨a, rfl⟩ : ∃ a, i = nk + a := ⟨i - nk, by omega⟩
  obtain ⟨b, rfl⟩ : ∃ b, n = a + (b + 1) := ⟨n - (a + 1), by omega⟩
  rw [expandFrom_append]
  have hl : (expandFrom nk a ws).length = nk + a := by simp [hw]
  generalize expandFrom nk a ws = us at hl
  simp only [expandFrom, hl]
  generalize hx : xorWord (wordOf us (nk + a - nk)) (scheduleTemp nk (nk + a) (wordOf us (nk + a - 1))) = x
  have keep : ∀ k, k < nk + a + 1 → wordOf (expandFrom nk b (us ++ [x])) k = wordOf (us ++ [x]) k :=
    fun k hk' => wordOf_expandFrom_old _ _ _ (by simp [hl]; omega)
  have old : ∀ k, k < nk + a → wordOf (us ++ [x]) k = wordOf us k := by
    intro k hk'
    simp [wordOf, List.getElem?_append_left (by omega : k < us.length)]
  rw [keep _ (by omega), keep _ (by omega), keep _ (by omega), old (nk + a - nk) (by omega),
    old (nk + a - 1) (by omega), hx]
  simp [wordOf, hl]

/-- The expansion has 4(Nr+1) words when the key is no longer than that (41_key_schedule.md R91). -/
theorem keyExpansionWords_length (nk nr : Nat) (key : KeyBytes) (h : nk ≤ 4 * (nr + 1)) :
    (keyExpansionWords nk nr key).length = 4 * (nr + 1) := by
  simp [keyExpansionWords]
  omega

/-- The bytes of a list of words, four to a word. -/
theorem flatMap_bytes_getD (ws : List KWord) (i k : Nat) (hk : k < 4) :
    (ws.flatMap fun x => [x[0], x[1], x[2], x[3]]).getD (4 * i + k) 0 = byteAt (wordOf ws i) k := by
  induction ws generalizing i with
  | nil => interval_cases k <;> simp [wordOf, byteAt]
  | cons x xs ih =>
    cases i with
    | zero => interval_cases k <;> simp [wordOf, byteAt]
    | succ i =>
      have e : 4 * (i + 1) + k = (4 * i + k) + 4 := by omega
      rw [e]
      simpa [wordOf] using ih i

/-- Byte j of the expansion is byte j mod 4 of word j div 4 (00_scope.md R18). -/
theorem keyExpansion_getD (nk nr : Nat) (key : KeyBytes) (j : Nat) :
    (keyExpansion nk nr key).getD j 0 = byteAt (wordOf (keyExpansionWords nk nr key) (j / 4)) (j % 4) := by
  have e : j = 4 * (j / 4) + j % 4 := by omega
  conv_lhs => rw [e]
  exact flatMap_bytes_getD _ _ _ (Nat.mod_lt _ (by decide))

end Sys2Proof.Machine
end

