-- ==== Sys2Proof/Laws/PerInstr.lean ====
section
/-! SUPPORT. Facts about every command as syntax, one lemma per constructor: where its fields stand in its CMD word (spec/30_encoding.md R67). -/

namespace Sys2Proof.Laws.EncodingFields

/-- The fields of the command's CMD word: OP in [3:0], ROUND in [11:8], RES0 and RES1 zero (30_encoding.md R67). -/
def Statement (i : Instr) : Prop :=
  (encode i).extractLsb' 0 4 = opcode i ∧ (encode i).extractLsb' 4 4 = 0
    ∧ (encode i).extractLsb' 8 4 = roundField i ∧ (encode i).extractLsb' 12 20 = 0

theorem keyExp : Statement .keyExp := by unfold Statement; decide
theorem encrypt : Statement .encrypt := by unfold Statement; decide
theorem decrypt : Statement .decrypt := by unfold Statement; decide
theorem subBytes : Statement .subBytes := by unfold Statement; decide
theorem invSubBytes : Statement .invSubBytes := by unfold Statement; decide
theorem shiftRows : Statement .shiftRows := by unfold Statement; decide
theorem invShiftRows : Statement .invShiftRows := by unfold Statement; decide
theorem mixColumns : Statement .mixColumns := by unfold Statement; decide
theorem invMixColumns : Statement .invMixColumns := by unfold Statement; decide

theorem addRoundKey (round : Nat) : Statement (.addRoundKey round) := by
  have all : ∀ f : BitVec 4,
      ((0xE#4).setWidth 32 ||| (f.setWidth 32 <<< 8)).extractLsb' 0 4 = 0xE#4
        ∧ ((0xE#4).setWidth 32 ||| (f.setWidth 32 <<< 8)).extractLsb' 4 4 = 0#4
        ∧ ((0xE#4).setWidth 32 ||| (f.setWidth 32 <<< 8)).extractLsb' 8 4 = f
        ∧ ((0xE#4).setWidth 32 ||| (f.setWidth 32 <<< 8)).extractLsb' 12 20 = 0#20 := by decide
  exact all (BitVec.ofNat 4 round)

end Sys2Proof.Laws.EncodingFields
end

