-- ==== Sys2Proof/Laws/Step.lean ====
section
/-! SUPPORT. Everything a step of the machine can do to the core's registers, said once: one case per kind of step (spec/20_memory.md R63). -/

namespace Sys2Proof.Machine

/-- What the registers are after one step of the machine from s that answers a next state. -/
inductive CoreChange (s : State) : Regs → Prop
  /-- A read, a refused transaction, an rst release, or no completion enabled: nothing changes. -/
  | none : CoreChange s s.core
  /-- A write to CTRL (10_state.md R32). -/
  | ctrl (v : Word) (h : Presents s (wr 0x000 v)) : CoreChange s (writeCtrl v s.core)
  /-- A write to STATUS (10_state.md R40). -/
  | status (v : Word) (h : Presents s (wr 0x004 v)) : CoreChange s (writeStatus v s.core)
  /-- A write dropped while busy (70_reset_and_hazards.md R135). -/
  | dropped (m : Nat) (v : Word) (h2 : 2 ≤ m) (h15 : m ≤ 15) (h : Presents s (wr (BitVec.ofNat 9 (4 * m)) v))
      (busy : s.core.busy = true) : CoreChange s (markDropped s.core)
  /-- A write to KEYLEN (20_memory.md R58). -/
  | keyLen (v : Word) (idle : s.core.busy = false) : CoreChange s (setKeyLen v s.core)
  /-- A write to STATEm (20_memory.md R58). -/
  | block (m : Nat) (v : Word) (idle : s.core.busy = false) : CoreChange s (setBlockWord m v s.core)
  /-- A write to KEYm (20_memory.md R58). -/
  | key (m : Nat) (v : Word) (idle : s.core.busy = false) : CoreChange s (setKeyWord m v s.core)
  /-- A CMD write that fails acceptance (60_exceptions.md R120). -/
  | refused (e : CmdError) (idle : s.core.busy = false) : CoreChange s (markError e s.core)
  /-- A CMD write that is accepted (60_exceptions.md R119). -/
  | accepted (i : Instr) (idle : s.core.busy = false) (check : checkOf i s.core = .none) : CoreChange s (markAccepted i s.core)
  /-- The completion step (43_cipher_pipelines.md R117). -/
  | completed (i : Instr) (r : Regs) (moves : CoreMoves s) (pending : s.core.pending = some i)
      (effect : effectOf i s.core = .ok r) : CoreChange s (markCompleted r)
  /-- rst is asserted (70_reset_and_hazards.md R131). -/
  | reset (h : s.inputs.head? = some .assertRst) : CoreChange s Regs.reset

/-- What an accepted transaction is: aligned, 32 bits, at a register, not a write to RKEY, rst not asserted
(20_memory.md R56). -/
theorem acceptedReg_some {s : State} {q : Request} {g : Reg} (h : acceptedReg s q = some g) :
    s.rst = false ∧ q.size = 2 ∧ q.off.toNat % 4 = 0 ∧ regAt q.off = some g ∧ (q.write = true → g.readOnly = false) := by
  unfold acceptedReg at h
  split at h
  · simp at h
  · split at h
    · simp at h
    · split at h
      · simp at h
      · split at h
        · simp at h
        · split at h
          · simp at h
          · simp_all

/-- Where each written register stands in the window (20_memory.md R49). -/
theorem regAt_aligned {off : BitVec 9} {g : Reg} (h : regAt off = some g) (ha : off.toNat % 4 = 0) :
    (g = .ctrl → off = 0x000) ∧ (g = .status → off = 0x004) ∧ (g = .cmd → off = BitVec.ofNat 9 (4 * 2))
      ∧ (g = .keyLen → off = BitVec.ofNat 9 (4 * 3))
      ∧ (∀ m, g = .state m → m < 4 ∧ off = BitVec.ofNat 9 (4 * (m + 4)))
      ∧ (∀ m, g = .key m → m < 8 ∧ off = BitVec.ofNat 9 (4 * (m + 8))) := by
  have all : ∀ o : BitVec 9, o.toNat % 4 = 0 →
      (regAt o = some .ctrl → o = 0x000) ∧ (regAt o = some .status → o = 0x004)
      ∧ (regAt o = some .cmd → o = BitVec.ofNat 9 (4 * 2)) ∧ (regAt o = some .keyLen → o = BitVec.ofNat 9 (4 * 3)) := by
    decide +kernel
  have a := all off ha
  refine ⟨fun e => a.1 (e ▸ h), fun e => a.2.1 (e ▸ h), fun e => a.2.2.1 (e ▸ h), fun e => a.2.2.2 (e ▸ h), ?_, ?_⟩ <;>
  · rintro m rfl
    simp only [regAt] at h
    split_ifs at h <;> simp only [Option.some.injEq, Reg.state.injEq, Reg.key.injEq, reduceCtorEq] at h
    exact ⟨by omega, by apply BitVec.eq_of_toNat_eq; simp; omega⟩

/-- A transaction at the head of the schedule that is accepted is one the host presents, with rst released. -/
theorem presents_wr {s : State} {q : Request} {es : List Event} {g : Reg} {off : BitVec 9}
    (he : s.inputs = .host q :: es) (ha : acceptedReg ((s.withInputs es).withTurn .host) q = some g)
    (hw : q.write = true) (ho : q.off = off) : Presents s (wr off q.wdata) := by
  obtain ⟨hr, hs, -, -, -⟩ := acceptedReg_some ha
  refine ⟨?_, hr⟩
  obtain ⟨w, o, z, d⟩ := q
  simp_all [wr]

/-- Every step that answers a next state changes the registers in one of the ways of `CoreChange`. -/
theorem step_coreChange {s t : State} (h : step s = .next t) : CoreChange s t.core := by
  rcases step_cases s with ⟨e, es, he, hs⟩ | ⟨he, hs⟩
  · rw [hs] at h
    cases e with
    | host q =>
      simp only [eventStep] at h
      rcases hostStep_cases q ((s.withInputs es).withTurn .host) with hc | ⟨g, -, -, hc⟩ | ⟨g, ha, hw, hg, hc⟩ | ⟨ha, hw, hc⟩
      · rw [hc] at h
        injection h with h
        subst h
        exact .none
      · rw [hc] at h
        injection h with h
        subst h
        simpa using CoreChange.none
      · rw [hc] at h
        injection h with h
        subst h
        obtain ⟨-, -, hal, hreg, hro⟩ := acceptedReg_some ha
        obtain ⟨o0, o1, -, o3, o4, o5⟩ := regAt_aligned hreg hal
        cases g with
        | ctrl => exact .ctrl _ (presents_wr he ha hw (o0 rfl))
        | status => exact .status _ (presents_wr he ha hw (o1 rfl))
        | cmd => exact absurd rfl hg
        | keyLen =>
          cases hb : s.core.busy
          · simpa [writeReg, writeUnlessBusy, hb] using CoreChange.keyLen q.wdata hb
          · simpa [writeReg, writeUnlessBusy, hb] using
              CoreChange.dropped 3 _ (by decide) (by decide) (presents_wr he ha hw (o3 rfl)) hb
        | state m =>
          obtain ⟨hm, ho⟩ := o4 m rfl
          cases hb : s.core.busy
          · simpa [writeReg, writeUnlessBusy, hb] using CoreChange.block m q.wdata hb
          · simpa [writeReg, writeUnlessBusy, hb] using
              CoreChange.dropped (m + 4) _ (by omega) (by omega) (presents_wr he ha hw ho) hb
        | key m =>
          obtain ⟨hm, ho⟩ := o5 m rfl
          cases hb : s.core.busy
          · simpa [writeReg, writeUnlessBusy, hb] using CoreChange.key m q.wdata hb
          · simpa [writeReg, writeUnlessBusy, hb] using
              CoreChange.dropped (m + 8) _ (by omega) (by omega) (presents_wr he ha hw ho) hb
        | rkey i => simp [Reg.readOnly] at hro; simp [hro] at hw
      · rw [hc] at h
        obtain ⟨-, -, hal, hreg, -⟩ := acceptedReg_some ha
        have hp := presents_wr he ha hw ((regAt_aligned hreg hal).2.2.1 rfl)
        rcases writeCmd_cases q.wdata (s := ((s.withInputs es).withTurn .host).answer q .none) rfl with ⟨i, -, hi⟩ | ⟨-, hi⟩
        · rw [hi] at h
          injection h with h
          subst h
          rcases issue_cases i (checkOf i) (((s.withInputs es).withTurn .host).answer q .none) with
            ⟨hb, hx⟩ | ⟨hb, e, -, hx⟩ | ⟨hb, hn, hx⟩ <;> rw [hx]
          · exact .dropped 2 _ (by decide) (by decide) hp hb
          · exact .refused e hb
          · exact .accepted i hb hn
        · rw [hi] at h
          injection h with h
          subst h
          rcases issueIllegal_cases (((s.withInputs es).withTurn .host).answer q .none) with ⟨hb, hx⟩ | ⟨hb, hx⟩ <;> rw [hx]
          · exact .dropped 2 _ (by decide) (by decide) hp hb
          · exact .refused .illegalCommand hb
    | complete =>
      simp only [eventStep] at h
      rcases coreStep_cases (s.withInputs es) with ⟨hb, hr, i, hp, hx⟩ | ⟨-, -, -, hx⟩ | ⟨-, hx⟩ <;> rw [hx] at h
      · obtain ⟨r, hr', rfl⟩ := complete_next h
        exact .completed i r ⟨hb, hr, .inr (by simp [he])⟩ hp hr'
      · simp at h
      · injection h with h
        subst h
        exact .none
    | assertRst =>
      injection h with h
      subst h
      exact .reset (by simp [he])
    | releaseRst =>
      injection h with h
      subst h
      exact .none
  · rw [hs] at h
    rcases coreStep_cases s with ⟨hb, hr, i, hp, hx⟩ | ⟨-, -, -, hx⟩ | ⟨-, hx⟩ <;> rw [hx] at h
    · obtain ⟨r, hr', rfl⟩ := complete_next h
      exact .completed i r ⟨hb, hr, .inl he⟩ hp hr'
    · simp at h
    · injection h with h
      subst h
      exact .none

end Sys2Proof.Machine
end

