-- ==== Sys2Proof/Laws/Tables.lean ====
section
/-! SUPPORT. The multiplication tables are linear over exclusive-or, shown from the doubling `xtime` alone (spec/40_constant_tables.md R76 to R80). -/

namespace Sys2Proof.Machine

/-- Doubling is linear (40_constant_tables.md R77). -/
theorem xtime_xor (a b : Byte) : xtime (a ^^^ b) = xtime a ^^^ xtime b := by
  unfold xtime
  apply BitVec.eq_of_getLsbD_eq
  intro i hi
  have ha : (BitVec.setWidth 9 a <<< 1).getLsbD 8 = a.getLsbD 7 := by simp
  have hb : (BitVec.setWidth 9 b <<< 1).getLsbD 8 = b.getLsbD 7 := by simp
  have hab : (BitVec.setWidth 9 (a ^^^ b) <<< 1).getLsbD 8 = (a.getLsbD 7 ^^ b.getLsbD 7) := by simp
  simp only [ha, hb, hab]
  cases a.getLsbD 7 <;> cases b.getLsbD 7 <;> interval_cases i <;> simp

theorem mul2_eq_xtime : ∀ a : Byte, mul2 a = xtime a := by decide +kernel

theorem mul3_eq : ∀ a : Byte, mul3 a = xtime a ^^^ a := by decide +kernel

theorem mul9_eq : ∀ a : Byte, mul9 a = xtime (xtime (xtime a)) ^^^ a := by decide +kernel

theorem mul11_eq : ∀ a : Byte, mul11 a = xtime (xtime (xtime a)) ^^^ xtime a ^^^ a := by decide +kernel

theorem mul13_eq : ∀ a : Byte, mul13 a = xtime (xtime (xtime a)) ^^^ xtime (xtime a) ^^^ a := by decide +kernel

theorem mul14_eq : ∀ a : Byte, mul14 a = xtime (xtime (xtime a)) ^^^ xtime (xtime a) ^^^ xtime a := by decide +kernel

/-! ### Linearity of the six tables -/

theorem mul2_xor (a b : Byte) : mul2 (a ^^^ b) = mul2 a ^^^ mul2 b := by
  simp only [mul2_eq_xtime, xtime_xor]

theorem mul3_xor (a b : Byte) : mul3 (a ^^^ b) = mul3 a ^^^ mul3 b := by
  simp only [mul3_eq, xtime_xor]; ac_rfl

theorem mul9_xor (a b : Byte) : mul9 (a ^^^ b) = mul9 a ^^^ mul9 b := by
  simp only [mul9_eq, xtime_xor]; ac_rfl

theorem mul11_xor (a b : Byte) : mul11 (a ^^^ b) = mul11 a ^^^ mul11 b := by
  simp only [mul11_eq, xtime_xor]; ac_rfl

theorem mul13_xor (a b : Byte) : mul13 (a ^^^ b) = mul13 a ^^^ mul13 b := by
  simp only [mul13_eq, xtime_xor]; ac_rfl

theorem mul14_xor (a b : Byte) : mul14 (a ^^^ b) = mul14 a ^^^ mul14 b := by
  simp only [mul14_eq, xtime_xor]; ac_rfl

end Sys2Proof.Machine
end

