-- ==== Sys2Proof/Tests/Slice0.lean ====
section
/-! SUPPORT. The model's own tests, with values from spec/95_test_vectors.md and the spec's worked examples, and a witness that meets the hypotheses of each statement. -/

namespace Sys2Proof.Machine.Tests

open Sys2Proof Sys2Proof.Machine

/-! ## Helpers -/

/-- A block written as its hex string, byte 0 leftmost (00_scope.md R15). -/
def blockOf (x : BitVec 128) : Block := tabulate 16 fun i => x.extractLsb' (8 * (15 - i)) 8

/-- A key of up to 32 bytes, written as a hex string padded with zero bytes on the right. -/
def keyOf (x : BitVec 256) : KeyBytes := tabulate 32 fun i => x.extractLsb' (8 * (31 - i)) 8

/-- The State 000102030405060708090a0b0c0d0e0f of 95_test_vectors.md section 2.3. -/
def counting : Block := blockOf 0x000102030405060708090a0b0c0d0e0f

/-- The AES-128 key 000102030405060708090a0b0c0d0e0f. -/
def key128 : KeyBytes := keyOf 0x000102030405060708090a0b0c0d0e0f00000000000000000000000000000000

/-- Registers holding the expansion of `key128`, STATUS 0x004A0004. -/
def held128 (b : Block) : Regs :=
  { Regs.reset with kv := true, nk := 4, nr := 10, keyLen := 16, key := key128, block := b
                    w := loadExpansion 10 (keyExpansion 4 10 key128) }

/-- Registers with a key held whose bytes are all zero: a small state for the witnesses. -/
def heldZero : Regs := { Regs.reset with kv := true, nk := 4, nr := 10, keyLen := 16 }

/-- The machine with these registers and these events to come. -/
def at_ (r : Regs) (es : List Event) : State := { State.reset with core := r, inputs := es }

/-- The machine at the core's turn. -/
def coreTurn (r : Regs) : State := { State.reset with core := r, turn := .core }

/-- STATE of the next state. -/
def blockAfter : Result → Option Block
  | .next s => some s.core.block
  | .fault _ => none
  | .refused _ => none

/-- STATUS of the next state. -/
def statusAfter : Result → Option Word
  | .next s => some (statusWord s.core)
  | .fault _ => none
  | .refused _ => none

/-- The response to the host's transaction. -/
def responseAfter : Result → Option (Option Word × Bool)
  | .next s => s.last.map fun t => (t.rdata, t.error)
  | .fault _ => none
  | .refused _ => none

/-- STATUS after one CMD write (95_test_vectors.md section 2.5). -/
def statusAfterCmd (r : Regs) (v : Word) : Option Word := statusAfter (step (at_ r [.host (cmdWrite v)]))

/-! ## Well-formedness and decoding -/

theorem test_wf_refuses_round_16 : (Instr.addRoundKey 16).wf = false := by decide
theorem test_wf_takes_round_15 : (Instr.addRoundKey 15).wf = true := by decide

/-- 0000 0000 0000 0000 0000 0000 0000 OOOO of 30_encoding.md R67, OP from R69, as little-endian bytes. -/
theorem test_decode_keyExp : decodeBytes [0b00000001, 0, 0, 0] = .ok .keyExp := by decide
theorem test_decode_encrypt : decodeBytes [0b00000010, 0, 0, 0] = .ok .encrypt := by decide
theorem test_decode_decrypt : decodeBytes [0b00000011, 0, 0, 0] = .ok .decrypt := by decide
theorem test_decode_subBytes : decodeBytes [0b00001000, 0, 0, 0] = .ok .subBytes := by decide
theorem test_decode_invSubBytes : decodeBytes [0b00001001, 0, 0, 0] = .ok .invSubBytes := by decide
theorem test_decode_shiftRows : decodeBytes [0b00001010, 0, 0, 0] = .ok .shiftRows := by decide
theorem test_decode_invShiftRows : decodeBytes [0b00001011, 0, 0, 0] = .ok .invShiftRows := by decide
theorem test_decode_mixColumns : decodeBytes [0b00001100, 0, 0, 0] = .ok .mixColumns := by decide
theorem test_decode_invMixColumns : decodeBytes [0b00001101, 0, 0, 0] = .ok .invMixColumns := by decide
theorem test_decode_addRoundKey_10 : decodeBytes [0b00001110, 0b00001010, 0, 0] = .ok (.addRoundKey 10) := by decide

/-- Reserved opcodes 0x0, 0x4 to 0x7, 0xF, a set reserved bit, a stray ROUND (95_test_vectors.md section 2.5). -/
theorem test_decode_illegal :
    [0x00000000, 0x00000004, 0x00000005, 0x00000006, 0x00000007, 0x0000000F, 0x00000101, 0x0000010C, 0x00000010,
      0x00001000, 0x80000002, 0x0000001E, 0x0000100E].all (fun v => (decode v).toOption.isNone) = true := by decide

theorem test_decode_short_bytes : decodeBytes [0b00000001, 0, 0] = .error .wrongLength := by decide
theorem test_decode_table_word_too_wide : decodeTableWord 40 0x0100000001 = none := by decide

/-! ## Tables, key schedule, transforms and pipelines -/

/-- Spot values for a = 0x53 and 0xca (95_test_vectors.md section 2.1). -/
theorem test_table_spots :
    [sbox 0x53, invSbox 0x53, mul2 0x53, mul3 0x53, mul9 0x53, mul11 0x53, mul13 0x53, mul14 0x53]
      = [0xed, 0x50, 0xa6, 0xf5, 0xfd, 0x5b, 0xaa, 0x5f]
    ∧ [sbox 0xca, invSbox 0xca, mul2 0xca, mul3 0xca, mul9 0xca, mul11 0xca, mul13 0xca, mul14 0xca]
      = [0x74, 0x10, 0x8f, 0x45, 0xc0, 0x4f, 0xc5, 0x80] := by decide

/-- 40_constant_tables.md R77, R78. -/
theorem test_gmul_examples : xtime 0x80 = 0x1B ∧ gmul 0x57 0x83 = 0xC1 ∧ gmul 0x57 0x13 = 0xFE := by decide

/-- w[51] of the AES-192 key (95_test_vectors.md section 2.2). -/
theorem test_schedule_192 : wordOf (keyExpansionWords 6 12
    (keyOf 0x000102030405060708090a0b0c0d0e0f10111213141516170000000000000000)) 51 = #v[0xe3, 0xa4, 0x1d, 0x5d] := by
  decide +kernel

/-- w[59] of the AES-256 key, after all six Nk = 8 branches (95_test_vectors.md section 2.2). -/
theorem test_schedule_256 : wordOf (keyExpansionWords 8 14
    (keyOf 0x000102030405060708090a0b0c0d0e0f101112131415161718191a1b1c1d1e1f)) 59 = #v[0x6d, 0x68, 0xde, 0x36] := by
  decide +kernel

/-- KEYEXP of the source's key in flight. -/
def sourceKeyPending : Regs :=
  let r : Regs := { Regs.reset with keyLen := 16, busy := true, pending := some .keyExp }
  { r with key := keyOf 0x2b7e151628aed2a6abf7158809cf4f3c00000000000000000000000000000000 }

/-- KEYEXP of the source's vector: RKEY4 = 0x17FEFAA0, RKEY43 = 0xA60C63B6, RKEY44 = 0, STATUS = 0x004A0006
(95_test_vectors.md section 2.2). -/
theorem test_exec_keyExp :
    (match exec .keyExp (coreTurn sourceKeyPending) with
      | .next t => [wordAt t.core.w 4, wordAt t.core.w 43, wordAt t.core.w 44, statusWord t.core]
      | .fault _ => []
      | .refused _ => []) = [0x17FEFAA0, 0xA60C63B6, 0x00000000, 0x004A0006] := by decide +kernel

/-! Each result below is from 95_test_vectors.md section 2.3. -/

theorem test_exec_subBytes : blockAfter (exec .subBytes (coreTurn { Regs.reset with block := counting }))
    = some (blockOf 0x637c777bf26b6fc53001672bfed7ab76) := by decide +kernel
theorem test_exec_invSubBytes : blockAfter (exec .invSubBytes (coreTurn { Regs.reset with block := counting }))
    = some (blockOf 0x52096ad53036a538bf40a39e81f3d7fb) := by decide +kernel
theorem test_exec_shiftRows : blockAfter (exec .shiftRows (coreTurn { Regs.reset with block := counting }))
    = some (blockOf 0x00050a0f04090e03080d02070c01060b) := by decide +kernel
theorem test_exec_invShiftRows : blockAfter (exec .invShiftRows (coreTurn { Regs.reset with block := counting }))
    = some (blockOf 0x000d0a0704010e0b0805020f0c090603) := by decide +kernel
theorem test_exec_mixColumns : blockAfter (exec .mixColumns (coreTurn { Regs.reset with block := counting }))
    = some (blockOf 0x02070005060304010a0f080d0e0b0c09) := by decide +kernel
theorem test_exec_invMixColumns : blockAfter (exec .invMixColumns (coreTurn { Regs.reset with block := counting }))
    = some (blockOf 0x0a0f080d0e0b0c090207000506030401) := by decide +kernel
theorem test_exec_addRoundKey_10 : blockAfter (exec (.addRoundKey 10) (coreTurn (held128 counting)))
    = some (blockOf 0x13101f7ce7914c10fb0ead8041263eca) := by decide +kernel

/-- The source's AES-128 known answer (95_test_vectors.md section 1.1). -/
theorem test_exec_encrypt : blockAfter (exec .encrypt (coreTurn (held128 (blockOf 0x00112233445566778899aabbccddeeff))))
    = some (blockOf 0x69c4e0d86a7b0430d8cdb78070b4c55a) := by decide +kernel

/-- The same known answer, decrypted (95_test_vectors.md section 2.4). -/
theorem test_exec_decrypt : blockAfter (exec .decrypt (coreTurn (held128 (blockOf 0x69c4e0d86a7b0430d8cdb78070b4c55a))))
    = some (blockOf 0x00112233445566778899aabbccddeeff) := by decide +kernel

/-! ## Acceptance and the register interface -/

/-- From reset (95_test_vectors.md section 2.5, first table). -/
theorem test_acceptance_from_reset :
    [0x00000001, 0x00000002, 0x00000003, 0x00000008, 0x0000000E, 0x00000F0E, 0x00000000, 0x00000101].map
        (statusAfterCmd Regs.reset)
      = [some 0x00000102, some 0x00000202, some 0x00000202, some 0x00000001, some 0x00000202, some 0x00000202,
          some 0x00000302, some 0x00000302] := by decide +kernel

/-- With an AES-128 key held (95_test_vectors.md section 2.5, second table): NR is legal, NR + 1 is not. -/
theorem test_acceptance_with_key :
    [0x00000001, 0x00000002, 0x0000000E, 0x00000A0E, 0x00000B0E, 0x0000010C].map (statusAfterCmd heldZero)
      = [some 0x004A0005, some 0x004A0005, some 0x004A0005, some 0x004A0005, some 0x004A0406, some 0x004A0306] := by
  decide +kernel

/-- AES-256: 14 = NR is accepted, 15 is not (95_test_vectors.md section 2.5, third table). -/
theorem test_acceptance_round_range_256 :
    [0x00000E0E, 0x00000F0E].map (statusAfterCmd { heldZero with nk := 8, nr := 14 })
      = [some 0x008E0005, some 0x008E0406] := by decide +kernel

/-- Busy with a command: KEYLEN and a second CMD write are dropped, OVR set (95_test_vectors.md section 2.6). -/
theorem test_busy_write_dropped :
    statusAfter (step (at_ { heldZero with busy := true, pending := some .encrypt } [.host (wr 0x00C 24)])) = some 0x004A000D
      ∧ statusAfterCmd { heldZero with busy := true, pending := some .encrypt } 0x3 = some 0x004A000D := by
  decide +kernel

/-- STATUS written with all ones: DONE, ERR, OVR cleared, KV, NR, NK kept (95_test_vectors.md section 2.6). -/
theorem test_status_write_ones :
    statusAfter (step (at_ { heldZero with done := true, ovr := true, err := 4 } [.host (wr 0x004 0xFFFFFFFF)]))
      = some 0x004A0004 := by decide +kernel

/-- Lanes: after WR 0x010, 0x33221100 STATE begins 00 11 22 33 (20_memory.md R52). -/
theorem test_state_lanes :
    (blockAfter (step (at_ Regs.reset [.host (wr 0x010 0x33221100)]))).map (fun b => [b[0], b[1], b[2], b[3], b[4]])
      = some [0x00, 0x11, 0x22, 0x33, 0x00] := by decide +kernel

/-- Refused reads answer 0 with an error, RKEY59 is accepted (95_test_vectors.md section 2.6). -/
theorem test_bus_errors :
    [rd 0x002 0, rd 0x040 0, rd 0x0FC 0, rd 0x1F0 0, rd 0x1FC 0, { rd 0x004 0 with size := 1 }, rd 0x1EC 0].map
        (fun q => responseAfter (step (at_ Regs.reset [.host q])))
      = [some (some 0, true), some (some 0, true), some (some 0, true), some (some 0, true), some (some 0, true),
          some (some 0, true), some (some 0, false)] := by decide +kernel

/-- Writes to RKEY are refused at both ends of the window (95_test_vectors.md section 2.6). -/
theorem test_rkey_write_refused :
    [wr 0x100 0, wr 0x1EC 0].map (fun q => responseAfter (step (at_ Regs.reset [.host q])))
      = [some (none, true), some (none, true)] := by decide +kernel

/-- The first command word of the table is what the step runs from reset. -/
theorem test_fetch_word_runs :
    statusAfter (step (State.reset.withFetchWord 32 0x8)) = some 0x00000001 := by decide +kernel

/-- The expansions of SETKEYLEN, LDKEY, LDSTATE's last word and ADDROUNDKEY 11, as 95_test_vectors.md P1 and P3 print them. -/
theorem test_expansions :
    (Pseudo.setKeyLen 16).expand = [.transaction (wr 0x00C 0x00000010)]
    ∧ (Pseudo.ldKey ((List.range 16).map (BitVec.ofNat 8))).expand
      = [.transaction (wr 0x020 0x03020100), .transaction (wr 0x024 0x07060504),
         .transaction (wr 0x028 0x0B0A0908), .transaction (wr 0x02C 0x0F0E0D0C)]
    ∧ ((Pseudo.ldState ((List.range 16).map fun i => BitVec.ofNat 8 (17 * i))).expand).getLast?
      = some (.transaction (wr 0x01C 0xFFEEDDCC))
    ∧ (Pseudo.command (.addRoundKey 11)).expand = [.transaction (wr 0x008 0x00000B0E)] := by decide

/-- What R75 expands, and what it does not: a round of 16, a 20-byte key, a 17-byte block. -/
theorem test_pseudo_wf :
    (Pseudo.command (.addRoundKey 15)).wf = true ∧ (Pseudo.command (.addRoundKey 16)).wf = false
    ∧ (Pseudo.ldKey (List.replicate 24 0)).wf = true ∧ (Pseudo.ldKey (List.replicate 20 0)).wf = false
    ∧ (Pseudo.ldState (List.replicate 17 0)).wf = false := by decide

/-- `n << 8 | 0xE` for n = 16 sets a reserved bit (30_encoding.md R70, R75, log entry 18). -/
theorem test_round_16_expands_to_an_illegal_word :
    commandWord (.addRoundKey 16) = 0x0000100E ∧ decode 0x0000100E = .error .illegal := by decide

/-! ## Witnesses: a concrete state and operands that meet the hypotheses of each statement, each clause at a boundary -/

/-- A pipeline in flight on a held key. -/
def busyEncrypt : Regs := { heldZero with busy := true, pending := some .encrypt }

/-- A key expansion in flight. -/
def busyKeyExp : Regs := { heldZero with busy := true, pending := some .keyExp }

/-- The host presents q, rst released. -/
def presenting (r : Regs) (q : Request) : State := at_ r [.host q]

theorem presents (r : Regs) (q : Request) : Presents (presenting r q) q := ⟨rfl, rfl⟩

theorem witness_DecodeAndEncodeAgree :
    (Instr.addRoundKey 15).wf = true ∧ decode 0x00000F0E = .ok (.addRoundKey 15) := by decide

theorem witness_ExactlyTwentyFiveWordsDecode : (15 < 16) ∧ ∀ i, decode 0x0000000F ≠ .ok i := by
  have e : decode 0x0000000F = .error .illegal := by decide
  exact ⟨by decide, fun i => by rw [e]; simp⟩

theorem witness_SboxIsAffineOfInverse : sbox 0x01 = sbox 0x01 ∧ (0x00 : Byte) = 0 ∧ (0x01 : Byte) ≠ 0 := by decide

theorem witness_RconIsPowersOfX : (8 : Nat) < 9 := by decide

theorem witness_KeyExpCompletesByTheRecurrence :
    (coreTurn { Regs.reset with keyLen := 16 }).turn = .core
    ∧ ((16#8).toNat, 4, 10) ∈ [(16, 4, 10), (24, 6, 12), (32, 8, 14)]
    ∧ ((24#8).toNat, 6, 12) ∈ [(16, 4, 10), (24, 6, 12), (32, 8, 14)]
    ∧ ((32#8).toNat, 8, 14) ∈ [(16, 4, 10), (24, 6, 12), (32, 8, 14)]
    ∧ (3 : Nat) < 4 ∧ 8 ≤ 59 ∧ 59 < 4 * (14 + 1) := by decide

theorem witness_FirstDerivedWordOfTheSourceVector : ∀ i, i < 4 →
    keyWord sourceKeyPending.key i = [#v[0x2b, 0x7e, 0x15, 0x16], #v[0x28, 0xae, 0xd2, 0xa6], #v[0xab, 0xf7, 0x15, 0x88],
      #v[0x09, 0xcf, 0x4f, 0x3c]].getD i #v[0, 0, 0, 0] := by decide +kernel

/-- Every state the statements about a completion of SUBBYTES, INVSUBBYTES, SHIFTROWS and INVSHIFTROWS need. -/
theorem witness_PrimitiveCompletes : (coreTurn Regs.reset).turn = .core ∧ (3 : Nat) < 4 := by decide

/-- MIXCOLUMNS and INVMIXCOLUMNS: the last column of a block. -/
theorem witness_MixColumnsCompletes : (coreTurn Regs.reset).turn = .core ∧ (3 : Nat) < 4
    ∧ (coreTurn Regs.reset).core.block[4 * 3]? = some 0 ∧ (coreTurn Regs.reset).core.block[4 * 3 + 1]? = some 0
    ∧ (coreTurn Regs.reset).core.block[4 * 3 + 2]? = some 0 ∧ (coreTurn Regs.reset).core.block[4 * 3 + 3]? = some 0 := by
  decide

/-- ADDROUNDKEY with n = NR = 14, its last byte. -/
theorem witness_AddRoundKeyCompletes :
    let s := coreTurn { heldZero with nk := 8, nr := 14 }
    s.turn = .core ∧ 14 ≤ s.core.nr.toNat ∧ 14 ≤ 14 ∧ s.core.block[15]? = some 0 ∧ s.core.w[16 * 14 + 15]? = some 0 := by
  decide

theorem witness_CompletionsWithoutOperandsFault :
    ¬(11 ≤ (coreTurn heldZero).core.nr.toNat ∧ 11 ≤ 14) ∧ ¬(15 ≤ (15#4).toNat ∧ 15 ≤ 14)
    ∧ (coreTurn Regs.reset).core.keyLen ∉ [16#8, 24#8, 32#8]
    ∧ CoreMoves (at_ { Regs.reset with busy := true } []) := by
  refine ⟨by decide, by decide, by decide, rfl, rfl, .inl rfl⟩

/-- ENCRYPT and DECRYPT with a key held. -/
theorem witness_PipelinesRun :
    (coreTurn busyEncrypt).turn = .core ∧ busyEncrypt.kv = true ∧ busyEncrypt.wf = true ∧ 1 ≤ 9 ∧ 9 < busyEncrypt.nr.toNat := by
  decide +kernel

theorem witness_PipelinesFaultOutsideTheInvariant :
    (coreTurn Regs.reset).turn = .core ∧ ¬(Regs.reset.kv = true ∧ Regs.reset.wf = true)
    ∧ ¬({ heldZero with nr := 12 }.kv = true ∧ { heldZero with nr := 12 }.wf = true) := by decide +kernel

theorem witness_PipelinesAreMutualInverses : 10 ∈ [10, 12, 14] ∧ 12 ∈ [10, 12, 14] ∧ 14 ∈ [10, 12, 14] := by decide

theorem witness_EncryptThenDecryptRestoresTheState :
    let s := at_ heldZero [.host (wr 0x008 0x2), .complete, .host (wr 0x008 0x3), .complete]
    s.core.kv = true ∧ s.core.wf = true ∧ s.core.busy = false ∧ s.rst = false
    ∧ s.inputs = .host (wr 0x008 0x2) :: .complete :: .host (wr 0x008 0x3) :: .complete :: [] := by decide +kernel

/-- KEYEXP with the longest key, ENCRYPT with a key, ADDROUNDKEY with n = NR, SUBBYTES with no key. -/
theorem witness_AcceptedCommandOccupiesTheCore :
    (at_ Regs.reset []).turn = .host ∧ Regs.reset.busy = false ∧ heldZero.busy = false
    ∧ { Regs.reset with keyLen := 32 }.keyLen ∈ [16#8, 24#8, 32#8] ∧ heldZero.kv = true ∧ 10 ≤ heldZero.nr.toNat := by decide

theorem witness_RefusedCommandRecordsOneError :
    (at_ Regs.reset []).turn = .host ∧ Regs.reset.busy = false
    ∧ { Regs.reset with keyLen := 33 }.keyLen ∉ [16#8, 24#8, 32#8] ∧ Regs.reset.kv = false
    ∧ heldZero.kv = true ∧ heldZero.nr.toNat < 11 := by decide

theorem witness_IllegalCommandRecordsError :
    Presents (presenting Regs.reset (wr 0x008 0x80000002)) (wr 0x008 0x80000002) ∧ Regs.reset.busy = false
    ∧ ∀ i, decode 0x80000002 ≠ .ok i := by
  have e : decode 0x80000002 = .error .illegal := by decide
  exact ⟨presents _ _, rfl, fun i => by rw [e]; simp⟩

/-- CMD (m = 2) and KEY7 (m = 15), CTRL and STATUS, written while busy. -/
theorem witness_WritesWhileBusyAreDropped :
    busyEncrypt.busy = true
    ∧ Presents (presenting busyEncrypt (wr (BitVec.ofNat 9 (4 * 2)) 0)) (wr (BitVec.ofNat 9 (4 * 2)) 0)
    ∧ Presents (presenting busyEncrypt (wr (BitVec.ofNat 9 (4 * 15)) 0)) (wr (BitVec.ofNat 9 (4 * 15)) 0)
    ∧ Presents (presenting busyEncrypt (wr 0x000 1)) (wr 0x000 1)
    ∧ Presents (presenting busyEncrypt (wr 0x004 8)) (wr 0x004 8) :=
  ⟨rfl, presents _ _, presents _ _, presents _ _, presents _ _⟩

/-- StepIssuesTheDecodedCommand and FetchWordIsTheNextCommand. -/
theorem witness_StepIssuesTheDecodedCommand :
    Presents (presenting Regs.reset (wr 0x008 0x1)) (wr 0x008 0x1) ∧ decode 0x1 = .ok .keyExp := ⟨presents _ _, by decide⟩

/-- The core moves with an empty schedule and with a completion event. -/
theorem witness_StepCompletesThePendingCommand :
    CoreMoves (at_ busyEncrypt []) ∧ CoreMoves (at_ busyEncrypt [.complete]) ∧ busyEncrypt.pending = some .encrypt :=
  ⟨⟨rfl, rfl, .inl rfl⟩, ⟨rfl, rfl, .inr rfl⟩, rfl⟩

theorem witness_IdleCoreKeepsItsState :
    Regs.reset.busy = false ∧ (at_ Regs.reset []).inputs = [] ∧ { State.reset with rst := true }.rst = true
    ∧ (at_ Regs.reset [.complete]).inputs.head? = some .complete := by decide

/-- Reads and writes of CTRL, STATUS, KEYLEN, and of STATE and KEY at the last word, not busy. -/
theorem witness_RegisterAccess :
    Regs.reset.busy = false
    ∧ Presents (presenting Regs.reset (wr 0x000 1)) (wr 0x000 1) ∧ Presents (presenting Regs.reset (rd 0x000 0)) (rd 0x000 0)
    ∧ Presents (presenting Regs.reset (wr 0x004 2)) (wr 0x004 2) ∧ Presents (presenting Regs.reset (rd 0x004 0)) (rd 0x004 0)
    ∧ Presents (presenting Regs.reset (wr 0x00C 24)) (wr 0x00C 24)
    ∧ Presents (presenting Regs.reset (wr (BitVec.ofNat 9 (0x010 + 4 * 3)) 7)) (wr (BitVec.ofNat 9 (0x010 + 4 * 3)) 7)
    ∧ Presents (presenting Regs.reset (wr (BitVec.ofNat 9 (0x020 + 4 * 7)) 7)) (wr (BitVec.ofNat 9 (0x020 + 4 * 7)) 7) :=
  ⟨rfl, presents _ _, presents _ _, presents _ _, presents _ _, presents _ _, presents _ _, presents _ _⟩

/-- Reads of CMD, KEYLEN, STATE3, KEY7 and RKEY59, not busy, and of RKEY59 while a command other than KEYEXP is in flight. -/
theorem witness_ReadsReturnTheirBytes :
    Presents (presenting Regs.reset (rd 0x008 0)) (rd 0x008 0) ∧ Presents (presenting Regs.reset (rd 0x00C 0)) (rd 0x00C 0)
    ∧ Presents (presenting Regs.reset (rd (BitVec.ofNat 9 (0x010 + 4 * 3)) 0)) (rd (BitVec.ofNat 9 (0x010 + 4 * 3)) 0)
    ∧ Presents (presenting Regs.reset (rd (BitVec.ofNat 9 (0x020 + 4 * 7)) 0)) (rd (BitVec.ofNat 9 (0x020 + 4 * 7)) 0)
    ∧ ¬(busyEncrypt.busy = true ∧ busyEncrypt.pending = some .keyExp)
    ∧ Presents (presenting busyEncrypt (rd (BitVec.ofNat 9 (0x100 + 4 * 59)) 0)) (rd (BitVec.ofNat 9 (0x100 + 4 * 59)) 0) :=
  ⟨presents _ _, presents _ _, presents _ _, presents _ _, by decide, presents _ _⟩

theorem witness_BusyReadsAreFreeDraws :
    busyEncrypt.busy = true ∧ busyKeyExp.busy = true ∧ busyKeyExp.pending = some .keyExp
    ∧ Presents (presenting busyEncrypt (rd (BitVec.ofNat 9 (0x010 + 4 * 3)) 0)) (rd (BitVec.ofNat 9 (0x010 + 4 * 3)) 0)
    ∧ Presents (presenting busyKeyExp (rd (BitVec.ofNat 9 (0x100 + 4 * 59)) 0)) (rd (BitVec.ofNat 9 (0x100 + 4 * 59)) 0) :=
  ⟨rfl, rfl, rfl, presents _ _, presents _ _⟩

/-- The list of 20_memory.md R56 on one request. -/
abbrev onTheList (rst : Bool) (q : Request) : Prop :=
  q.size ≠ 2 ∨ q.off.toNat % 4 ≠ 0 ∨ (0x040 ≤ q.off.toNat ∧ q.off.toNat < 0x100)
    ∨ 0x1F0 ≤ q.off.toNat ∨ (q.write = true ∧ 0x100 ≤ q.off.toNat ∧ q.off.toNat < 0x1F0) ∨ rst = true

/-- Each item of the list at its boundaries, and requests next to them that are on none. -/
theorem witness_TransactionsAreRefusedExactlyByTheList :
    [{ rd 0x004 0 with size := 3 }, rd 0x002 0, rd 0x040 0, rd 0x0FC 0, rd 0x1F0 0, rd 0x1FC 0, wr 0x100 0, wr 0x1EC 0].all
        (fun q => decide (onTheList false q)) = true
    ∧ [rd 0x03C 0, rd 0x100 0, rd 0x1EC 0, wr 0x03C 0, rd 0x000 0].all (fun q => decide (¬onTheList false q)) = true
    ∧ onTheList true (rd 0x000 0) ∧ (presenting Regs.reset (rd 0x040 0)).inputs.head? = some (.host (rd 0x040 0)) := by
  decide

theorem witness_ReadsHaveNoSideEffect :
    (presenting busyEncrypt (rd 0x010 0)).inputs.head? = some (.host (rd 0x010 0)) ∧ (rd 0x010 0).write = false := by decide

theorem witness_ResetClearsEverything :
    (at_ busyEncrypt [.assertRst]).inputs.head? = some .assertRst
    ∧ { presenting Regs.reset (rd 0x004 0) with rst := true }.rst = true
    ∧ { presenting Regs.reset (rd 0x004 0) with rst := true }.inputs.head? = some (.host (rd 0x004 0))
    ∧ { at_ Regs.reset [.complete] with rst := true }.inputs.head? = some .complete
    ∧ { State.reset with rst := true }.inputs = [] := by decide

/-- Each clause: accepted, refused and dropped at the host's turn, a completion, a STATUS write, reset, a refused
transaction, a dropped write. -/
theorem witness_InterruptFollowsEnableAndDone :
    (∃ t, exec .subBytes (at_ Regs.reset []) = .next t ∧ Regs.reset.busy = false ∧ t.core.busy = true)
    ∧ (∃ t, exec .encrypt (at_ Regs.reset []) = .next t ∧ t.core.busy = false)
    ∧ (∃ t, exec .encrypt (at_ busyEncrypt []) = .next t ∧ busyEncrypt.busy = true)
    ∧ (∃ t, exec .subBytes (coreTurn Regs.reset) = .next t)
    ∧ (∃ t, step (presenting Regs.reset (wr 0x004 2)) = .next t ∧ (2#32).getLsbD 1 = true)
    ∧ (∃ t, step (at_ busyEncrypt [.assertRst]) = .next t)
    ∧ (∃ t d, step (presenting Regs.reset (rd 0x040 0)) = .next t ∧ t.last = some { req := rd 0x040 0, rdata := d, error := true })
    ∧ (∃ t, step (presenting busyEncrypt (wr 0x00C 1)) = .next t ∧ t.core.ovr ≠ busyEncrypt.ovr
        ∧ (wr 0x00C 1).off.toNat ≠ 0x004) :=
  ⟨⟨_, rfl, rfl, rfl⟩, ⟨_, rfl, rfl⟩, ⟨_, rfl, rfl⟩, ⟨_, rfl⟩, ⟨_, rfl, by decide⟩, ⟨_, rfl⟩, ⟨_, _, rfl, rfl⟩,
    ⟨_, rfl, by decide, by decide⟩⟩

/-- EveryStepKeepsTheInvariant and NoStepStopsUnderTheInvariant: an idle and a busy state with the invariant, and a step. -/
theorem witness_Invariant :
    Invariant State.reset ∧ Invariant (at_ busyEncrypt []) ∧ Invariant (at_ busyKeyExp [.complete])
    ∧ ∃ t, step (at_ Regs.reset [.host (wr 0x008 0x8)]) = .next t :=
  ⟨⟨by decide +kernel, by decide +kernel⟩, ⟨by decide +kernel, by decide +kernel⟩, ⟨by decide +kernel, by decide +kernel⟩,
    _, rfl⟩

theorem witness_CommandInFlightCompletes : Invariant (at_ busyEncrypt []) ∧ CoreMoves (at_ busyEncrypt []) :=
  ⟨witness_Invariant.2.1, rfl, rfl, .inl rfl⟩

/-- A command at each turn, one that is KEYEXP and one that is not. -/
theorem witness_CommandFrame :
    (∃ t, exec .subBytes (coreTurn Regs.reset) = .next t) ∧ (∃ t, exec .subBytes (at_ Regs.reset []) = .next t)
    ∧ (∃ t, exec .keyExp (coreTurn busyKeyExp) = .next t) ∧ Regs.reset.busy = false :=
  ⟨⟨_, rfl⟩, ⟨_, rfl⟩, ⟨_, rfl⟩, rfl⟩

theorem witness_HeldKeyChangesOnlyByKeyExpOrReset :
    (∃ t, step (presenting heldZero (wr 0x020 0xFFFFFFFF)) = .next t)
    ∧ (presenting heldZero (wr 0x020 0xFFFFFFFF)).inputs.head? ≠ some .assertRst
    ∧ ¬(CoreMoves (presenting heldZero (wr 0x020 0xFFFFFFFF)) ∧ heldZero.pending = some .keyExp) :=
  ⟨⟨_, rfl⟩, by decide, fun h => by simp [heldZero, Regs.reset] at h⟩

theorem witness_KeyValidIsClearedOnlyByReset :
    ∃ t, step (at_ heldZero [.assertRst]) = .next t ∧ heldZero.kv = true ∧ t.core.kv = false := ⟨_, rfl, rfl, rfl⟩

/-- OVR cleared by a STATUS write and set by a dropped write. -/
theorem witness_OverrunIsSticky :
    (∃ t, step (presenting { Regs.reset with ovr := true } (wr 0x004 8)) = .next t ∧ t.core.ovr = false)
    ∧ (∃ t, step (presenting busyEncrypt (wr 0x008 0)) = .next t ∧ busyEncrypt.ovr = false ∧ t.core.ovr = true) :=
  ⟨⟨_, rfl, by decide⟩, ⟨_, rfl, rfl, by decide⟩⟩

theorem witness_OperandsStayWhileBusy :
    (∃ t, step (presenting busyEncrypt (wr 0x010 0xFFFFFFFF)) = .next t) ∧ busyEncrypt.busy = true
    ∧ ¬CoreMoves (presenting busyEncrypt (wr 0x010 0xFFFFFFFF))
    ∧ (presenting busyEncrypt (wr 0x010 0xFFFFFFFF)).inputs.head? ≠ some .assertRst :=
  ⟨⟨_, rfl⟩, rfl, fun h => by simp [CoreMoves, presenting, at_] at h, by decide⟩

theorem witness_HostFaultIsNeverCleared :
    ∃ t, step { at_ Regs.reset [.assertRst] with hostFault := true } = .next t
      ∧ { at_ Regs.reset [.assertRst] with hostFault := true }.hostFault = true := ⟨_, rfl, rfl⟩

/-- An idle core, and byte strings of each length LDKEY and LDSTATE take. -/
theorem witness_LoadPseudoInstructionsLoadTheirBytes :
    State.reset.core.busy = false ∧ State.reset.rst = false
    ∧ (List.replicate 16 (0xA5 : Byte)).length = 16 ∧ (List.replicate 24 (0xA5 : Byte)).length ∈ [16, 24, 32]
    ∧ (List.replicate 32 (0xA5 : Byte)).length ∈ [16, 24, 32] := by decide

/-- WAIT's read presented to a busy core and to an idle one. -/
theorem witness_WaitLoopsExactlyWhileBusy :
    Presents (presenting busyEncrypt HostLine.wait.request) HostLine.wait.request
    ∧ Presents (presenting Regs.reset HostLine.wait.request) HostLine.wait.request :=
  ⟨presents _ _, presents _ _⟩

end Sys2Proof.Machine.Tests
end

/-! # The host's transactions as steps of the machine, and CTRL and STATUS (spec/20_memory.md R56 to R58, spec/10_state.md R32, R40) -/

namespace Sys2Proof.Machine

/-! ### A presented transaction -/

/-- The step of a presented transaction is the host's, the transaction taken from the schedule (20_memory.md R63). -/
theorem step_of_presents {s : State} {q : Request} (h : Presents s q) :
    step s = hostStep q ((s.withInputs s.inputs.tail).withTurn .host) := by
  obtain ⟨hq, -⟩ := h
  rcases step_cases s with ⟨e, es, he, hs⟩ | ⟨he, -⟩
  · obtain rfl : e = .host q := by simpa [he] using hq
    rw [hs, he]
    rfl
  · simp [he] at hq

/-- An aligned 32-bit transaction at a register is accepted, unless it would write RKEY (20_memory.md R56). -/
theorem acceptedReg_eq_some {s : State} {q : Request} {g : Reg} (hr : s.rst = false) (hs : q.size = 2)
    (ha : q.off.toNat % 4 = 0) (hg : regAt q.off = some g) (hw : q.write = true → g.readOnly = false) :
    acceptedReg s q = some g := by
  simpa [acceptedReg, hr, hs, ha, hg] using hw

/-- What `State.answered` is in the operations a host step is made of (20_memory.md R47). -/
theorem answered_eq_withCore (s : State) (q : Request) (d : Option Word) (r : Regs) :
    s.answered q d r = (((s.withInputs s.inputs.tail).withTurn .host).answer q d).withCore r := rfl

/-- An answer that leaves the registers as they are. -/
theorem answered_core_eq_answer (s : State) (q : Request) (d : Option Word) :
    s.answered q d s.core = ((s.withInputs s.inputs.tail).withTurn .host).answer q d := rfl

/-- A presented write to any writable register but CMD (20_memory.md R58). -/
theorem step_write {s : State} {off : BitVec 9} {v : Word} {g : Reg} (h : Presents s (wr off v))
    (ha : off.toNat % 4 = 0) (hg : regAt off = some g) (hw : g.readOnly = false) (hc : g ≠ .cmd) :
    step s = .next (s.answered (wr off v) none (writeReg g v s.core)) := by
  have hacc : acceptedReg ((s.withInputs s.inputs.tail).withTurn .host) (wr off v) = some g :=
    acceptedReg_eq_some h.2 rfl ha hg fun _ => hw
  rw [step_of_presents h, hostStep, hacc, answered_eq_withCore]
  simp [wr, writeAccepted, hc]

/-- A presented read of a register that is no free draw (20_memory.md R57). -/
theorem step_read {s : State} {off : BitVec 9} {d : Word} {g : Reg} (h : Presents s (rd off d))
    (ha : off.toNat % 4 = 0) (hg : regAt off = some g) (hf : readsFree s.core g = false) :
    step s = .next (s.answered (rd off d) (some (regValue s.core g)) s.core) := by
  have hacc : acceptedReg ((s.withInputs s.inputs.tail).withTurn .host) (rd off d) = some g :=
    acceptedReg_eq_some h.2 rfl ha hg (by simp [rd])
  rw [step_of_presents h, hostStep, hacc, answered_core_eq_answer]
  simp [rd, readReg, hf]

/-! ### CTRL and STATUS -/

/-- A flag stands in bit 0 of its 32-bit value, and every other bit is 0. -/
theorem getLsbD_flagWord (b : Bool) (k : Nat) : (flagWord b).getLsbD k = (decide (k = 0) && b) := by
  cases k <;> cases b <;> simp [flagWord]

/-- A read of CTRL returns IE in bit 0 and zeros in the rest (10_state.md R32). -/
theorem getLsbD_ctrlWord (r : Regs) (k : Nat) : (ctrlWord r).getLsbD k = (decide (k = 0) && r.ie) :=
  getLsbD_flagWord r.ie k

/-- Settles O37: the step writes CTRL by `writeCtrl` and reads it as `ctrlWord`, whose only bit is IE. -/
theorem ctrlHoldsTheInterruptEnable : Obligations.CtrlHoldsTheInterruptEnable := by
  unfold Obligations.CtrlHoldsTheInterruptEnable
  intro s v d
  constructor
  · intro h
    exact step_write h rfl rfl rfl (by decide)
  · intro h
    refine ⟨ctrlWord s.core, ?_, ?_, step_read h rfl rfl rfl⟩
    · rw [getLsbD_ctrlWord, decide_eq_true rfl, Bool.true_and]
    · intro k hk
      rw [getLsbD_ctrlWord, decide_eq_false (by omega), Bool.false_and]

/-- Settles O38: STATUS is a register the step writes by `writeStatus`, whatever BUSY is. -/
theorem statusWriteClearsByOnes : Obligations.StatusWriteClearsByOnes := by
  unfold Obligations.StatusWriteClearsByOnes
  intro s v h
  exact step_write h rfl rfl rfl (by decide)

end Sys2Proof.Machine

/-! # Which transactions are refused, and what every other one is answered (spec/20_memory.md R49, R56, spec/60_exceptions.md R121) -/

namespace Sys2Proof.Machine

/-! ### The list of R56 -/

/-- The reserved offsets of the window (20_memory.md R49). -/
theorem regAt_eq_none_iff (off : BitVec 9) :
    regAt off = none ↔ (0x040 ≤ off.toNat ∧ off.toNat < 0x100) ∨ 0x1F0 ≤ off.toNat := by
  simp only [regAt]
  split_ifs <;> simp only [true_iff, false_iff] <;> omega

/-- The registers no transaction may write stand in the RKEY window (20_memory.md R49). -/
theorem readOnly_iff_of_regAt {off : BitVec 9} {g : Reg} (h : regAt off = some g) :
    g.readOnly = true ↔ 0x100 ≤ off.toNat ∧ off.toNat < 0x1F0 := by
  simp only [regAt] at h
  split_ifs at h <;> cases h <;> simp only [Reg.readOnly, true_iff, Bool.false_eq_true, false_iff] <;> omega

/-- No register is moved exactly by the transactions on the list of 20_memory.md R56. -/
theorem acceptedReg_eq_none_iff (s : State) (q : Request) :
    acceptedReg s q = none ↔
      q.size ≠ 2 ∨ q.off.toNat % 4 ≠ 0 ∨ (0x040 ≤ q.off.toNat ∧ q.off.toNat < 0x100) ∨ 0x1F0 ≤ q.off.toNat
        ∨ (q.write = true ∧ 0x100 ≤ q.off.toNat ∧ q.off.toNat < 0x1F0) ∨ s.rst = true := by
  constructor
  · intro hn
    by_contra! hl
    obtain ⟨hs, ha, hmid, htop, hro, hr⟩ := hl
    cases hg : regAt q.off with
    | none =>
      have := (regAt_eq_none_iff q.off).1 hg
      omega
    | some g =>
      have hw : q.write = true → g.readOnly = false := by
        intro hw
        have := hro hw
        rw [← Bool.not_eq_true, readOnly_iff_of_regAt hg]
        omega
      simp [acceptedReg_eq_some (by simpa using hr) hs ha hg hw] at hn
  · intro hl
    cases hacc : acceptedReg s q with
    | none => rfl
    | some g =>
      obtain ⟨hr, hs, ha, hg, hw⟩ := acceptedReg_some hacc
      have hreg := mt (regAt_eq_none_iff q.off).2 (by simp [hg])
      have hro := readOnly_iff_of_regAt hg
      rcases hl with h | h | h | h | ⟨hwrite, hwin⟩ | h
      · exact absurd hs h
      · exact absurd ha h
      · exact absurd (.inl h) hreg
      · exact absurd (.inr h) hreg
      · simp [hw hwrite, hwin] at hro
      · simp [hr] at h

/-! ### What an accepted transaction is answered -/

/-- A command's issue changes no field but the registers (60_exceptions.md R119). -/
theorem issue_eq_withCore (i : Instr) (check : Regs → Option CmdError) (s : State) :
    ∃ r, issue i check s = s.withCore r := by
  rcases issue_cases i check s with ⟨-, h⟩ | ⟨-, e, -, h⟩ | ⟨-, -, h⟩ <;> exact ⟨_, h⟩

/-- A CMD write changes no field but the registers, whether its value is a command or not (60_exceptions.md R119). -/
theorem writeCmd_eq_withCore (v : Word) {s : State} (ht : s.turn = .host) :
    ∃ r, writeCmd v s = .next (s.withCore r) := by
  rcases writeCmd_cases v ht with ⟨i, -, h⟩ | ⟨-, h⟩
  · obtain ⟨r, hr⟩ := issue_eq_withCore i (checkOf i) s
    exact ⟨r, by rw [h, hr]⟩
  · rcases issueIllegal_cases s with ⟨-, hi⟩ | ⟨-, hi⟩ <;> exact ⟨_, by rw [h, hi]⟩

/-- An accepted write is answered with no error and no read data (20_memory.md R58). -/
theorem writeAccepted_eq_answer (q : Request) (g : Reg) {s : State} (ht : s.turn = .host) :
    ∃ r, writeAccepted q g s = .next ((s.answer q none).withCore r) := by
  unfold writeAccepted
  split
  · exact writeCmd_eq_withCore q.wdata (by simpa using ht)
  · exact ⟨_, rfl⟩

/-- An accepted read is answered with a value and no error, be it a register's or a free draw (20_memory.md R57). -/
theorem readReg_last (q : Request) (g : Reg) (s : State) :
    ∃ x, (readReg q g s).last = some { req := q, rdata := some x, error := false } := by
  unfold readReg
  split <;> exact ⟨_, rfl⟩

/-- An accepted read leaves the host program's fault bit (60_exceptions.md R121). -/
@[simp] theorem readReg_hostFault (q : Request) (g : Reg) (s : State) : (readReg q g s).hostFault = s.hostFault := by
  unfold readReg
  split <;> rfl

/-- A transaction on the list is refused (20_memory.md R56). -/
theorem hostStep_of_refused {s : State} {q : Request} (h : acceptedReg s q = none) :
    hostStep q s = .next (s.refuse q) := by
  simp [hostStep, h]

/-- A transaction that moves a register is answered with no error, read data exactly for a read, and the fault bit as it
was (20_memory.md R57, R58, 60_exceptions.md R121). -/
theorem hostStep_of_accepted {s : State} {q : Request} {g : Reg} (h : acceptedReg s q = some g) (ht : s.turn = .host) :
    ∃ (t : State) (d : Option Word), hostStep q s = .next t ∧ t.last = some { req := q, rdata := d, error := false }
      ∧ (d.isSome ↔ q.write = false) ∧ t.hostFault = s.hostFault := by
  cases hw : q.write with
  | true =>
    obtain ⟨r, hr⟩ := writeAccepted_eq_answer q g ht
    exact ⟨(s.answer q none).withCore r, none, by simp [hostStep, h, hw, hr], rfl, by simp, rfl⟩
  | false =>
    obtain ⟨x, hx⟩ := readReg_last q g s
    exact ⟨readReg q g s, some x, by simp [hostStep, h, hw], hx, by simp, readReg_hostFault q g s⟩

/-! ### The step -/

/-- The step of a host transaction at the head of the schedule, at either level of rst (20_memory.md R63). -/
theorem step_of_host {s : State} {q : Request} (h : s.inputs.head? = some (.host q)) :
    step s = hostStep q ((s.withInputs s.inputs.tail).withTurn .host) := by
  rcases step_cases s with ⟨e, es, he, hs⟩ | ⟨he, -⟩
  · obtain rfl : e = .host q := by simpa [he] using h
    rw [hs, he]
    rfl
  · simp [he] at h

/-- Settles O43: a transaction moves no register exactly when it is on the list, and the step refuses it then and answers
it otherwise. -/
theorem transactionsAreRefusedExactlyByTheList : Obligations.TransactionsAreRefusedExactlyByTheList := by
  unfold Obligations.TransactionsAreRefusedExactlyByTheList
  intro s q hq refusedByR56
  have refused_iff : acceptedReg ((s.withInputs s.inputs.tail).withTurn .host) q = none ↔ refusedByR56 :=
    acceptedReg_eq_none_iff _ q
  rw [step_of_host hq]
  constructor
  · intro h
    exact hostStep_of_refused (refused_iff.2 h)
  · intro h
    obtain ⟨g, hg⟩ := Option.ne_none_iff_exists'.1 (mt refused_iff.1 h)
    exact hostStep_of_accepted hg rfl

end Sys2Proof.Machine

/-! # The words that decode are the command words (spec/30_encoding.md R67 to R70) -/

namespace Sys2Proof

/-! ### The fields of a CMD word -/

/-- A CMD word is its four fields OP, RES0, ROUND and RES1 (30_encoding.md R67). -/
theorem word_ext_fields {v w : Word} (hop : v.extractLsb' 0 4 = w.extractLsb' 0 4)
    (hres0 : v.extractLsb' 4 4 = w.extractLsb' 4 4) (hround : v.extractLsb' 8 4 = w.extractLsb' 8 4)
    (hres1 : v.extractLsb' 12 20 = w.extractLsb' 12 20) : v = w := by
  simp only [← BitVec.toNat_inj, BitVec.extractLsb'_toNat, Nat.shiftRight_eq_div_pow] at *
  omega

/-- Where the fields of every command stand in its CMD word (30_encoding.md R67). -/
theorem encodingFields (i : Instr) : Laws.EncodingFields.Statement i := by
  cases i with
  | keyExp => exact Laws.EncodingFields.keyExp
  | encrypt => exact Laws.EncodingFields.encrypt
  | decrypt => exact Laws.EncodingFields.decrypt
  | subBytes => exact Laws.EncodingFields.subBytes
  | invSubBytes => exact Laws.EncodingFields.invSubBytes
  | shiftRows => exact Laws.EncodingFields.shiftRows
  | invShiftRows => exact Laws.EncodingFields.invShiftRows
  | mixColumns => exact Laws.EncodingFields.mixColumns
  | invMixColumns => exact Laws.EncodingFields.invMixColumns
  | addRoundKey round => exact Laws.EncodingFields.addRoundKey round

/-- A word with a command's fields is that command's CMD word (30_encoding.md R67). -/
theorem eq_encode_of_fields {v : Word} {i : Instr} (hop : v.extractLsb' 0 4 = opcode i) (hres0 : v.extractLsb' 4 4 = 0)
    (hround : v.extractLsb' 8 4 = roundField i) (hres1 : v.extractLsb' 12 20 = 0) : v = encode i := by
  obtain ⟨eop, eres0, eround, eres1⟩ := encodingFields i
  exact word_ext_fields (hop.trans eop.symm) (hres0.trans eres0.symm) (hround.trans eround.symm)
    (hres1.trans eres1.symm)

/-! ### The decoder inverts the encoder -/

/-- The table of operand-free opcodes holds each command's own opcode (30_encoding.md R69). -/
theorem fields_of_lookup_opcodes {op : BitVec 4} {i : Instr} (h : opcodes.lookup op = some i) :
    opcode i = op ∧ roundField i = 0 ∧ i.wf = true := by
  have table : ∀ e ∈ opcodes, opcode e.2 = e.1 ∧ roundField e.2 = 0 ∧ e.2.wf = true := by decide
  obtain ⟨l₁, l₂, hl, -⟩ := List.lookup_eq_some_iff.1 h
  exact table (op, i) (by simp [hl])

/-- What the decoder answers is well-formed and comes from its own CMD word (30_encoding.md R70). -/
theorem wf_and_eq_encode_of_decode {v : Word} {i : Instr} (h : decode v = .ok i) : i.wf = true ∧ v = encode i := by
  simp only [decode] at h
  split at h
  case isTrue => cases h
  case isFalse hres =>
    obtain ⟨hres1, hres0⟩ : v.extractLsb' 12 20 = 0 ∧ v.extractLsb' 4 4 = 0 := by simpa using hres
    split at h
    case isTrue hop =>
      cases h
      have hround : v.extractLsb' 8 4 = roundField (.addRoundKey (v.extractLsb' 8 4).toNat) := by
        rw [roundField, BitVec.ofNat_toNat, BitVec.setWidth_eq]
      exact ⟨decide_eq_true (BitVec.isLt _), eq_encode_of_fields hop hres0 hround hres1⟩
    case isFalse =>
      split at h
      case isTrue => cases h
      case isFalse hround =>
        split at h
        case h_1 j hj =>
          cases h
          obtain ⟨eop, eround, hwf⟩ := fields_of_lookup_opcodes hj
          exact ⟨hwf, eq_encode_of_fields eop.symm hres0 ((not_not.1 hround).trans eround.symm) hres1⟩
        case h_2 => cases h

/-- A well-formed command is decoded from its CMD word (30_encoding.md R70). -/
theorem decode_encode {i : Instr} (h : i.wf = true) : decode (encode i) = .ok i := by
  cases i with
  | addRoundKey round =>
    have hlt : round < 16 := of_decide_eq_true h
    obtain ⟨hop, hres0, hround, hres1⟩ := Laws.EncodingFields.addRoundKey round
    simp [decode, hop, hres0, hround, hres1, opcode, roundField, Nat.mod_eq_of_lt hlt]
  | keyExp | encrypt | decrypt | subBytes | invSubBytes | shiftRows | invShiftRows | mixColumns | invMixColumns => rfl

/-- A value decodes to a command exactly when it is the CMD word of that command (30_encoding.md R70). -/
theorem decode_eq_ok_iff {v : Word} {i : Instr} : decode v = .ok i ↔ i.wf = true ∧ v = encode i := by
  constructor
  · exact wf_and_eq_encode_of_decode
  · rintro ⟨hwf, rfl⟩
    exact decode_encode hwf

/-- A value that is no command is Illegal: the decoder has no other error (30_encoding.md R70). -/
theorem decode_eq_illegal {v : Word} (h : ∀ i, decode v ≠ .ok i) : decode v = .error .illegal := by
  revert h
  simp only [decode]
  split_ifs
  · simp
  · simp
  · simp
  · split <;> simp

/-! ### The command words, written out -/

/-- The sixteen words of ADDROUNDKEY, `0x00000R0E` (30_encoding.md R70). -/
theorem encode_addRoundKey {n : Nat} (h : n < 16) : encode (.addRoundKey n) = BitVec.ofNat 32 (n * 256 + 14) := by
  interval_cases n <;> rfl

/-- The nine words of the operand-free commands and the sixteen of ADDROUNDKEY (30_encoding.md R70). -/
theorem exists_wf_encode_eq_iff (v : Word) :
    (∃ i : Instr, i.wf = true ∧ v = encode i) ↔
      v ∈ [0x1#32, 0x2#32, 0x3#32, 0x8#32, 0x9#32, 0xA#32, 0xB#32, 0xC#32, 0xD#32]
        ∨ ∃ n : Nat, n < 16 ∧ v = BitVec.ofNat 32 (n * 256 + 14) := by
  constructor
  · rintro ⟨i, hwf, rfl⟩
    cases i with
    | addRoundKey n =>
      have hlt : n < 16 := of_decide_eq_true hwf
      exact .inr ⟨n, hlt, encode_addRoundKey hlt⟩
    | keyExp | encrypt | decrypt | subBytes | invSubBytes | shiftRows | invShiftRows | mixColumns | invMixColumns =>
      exact .inl (by decide)
  · rintro (hv | ⟨n, hlt, rfl⟩)
    · have words : [0x1#32, 0x2#32, 0x3#32, 0x8#32, 0x9#32, 0xA#32, 0xB#32, 0xC#32, 0xD#32]
          = opcodes.map fun e => encode e.2 := by decide
      have wfs : ∀ e ∈ opcodes, e.2.wf = true := by decide
      rw [words] at hv
      obtain ⟨e, he, rfl⟩ := List.mem_map.1 hv
      exact ⟨e.2, wfs e he, rfl⟩
    · exact ⟨.addRoundKey n, decide_eq_true hlt, (encode_addRoundKey hlt).symm⟩

/-- Settles O3: a value decodes exactly when it is the CMD word of a well-formed command, and those are the
9 + 16 words. -/
theorem exactlyTwentyFiveWordsDecode : Obligations.ExactlyTwentyFiveWordsDecode := by
  unfold Obligations.ExactlyTwentyFiveWordsDecode
  have decodes : ∀ i : Instr, i.wf = true → decode (encode i) = .ok i := fun _ => decode_encode
  refine ⟨?_, decodes .keyExp rfl, decodes .encrypt rfl, decodes .decrypt rfl, decodes .subBytes rfl,
    decodes .invSubBytes rfl, decodes .shiftRows rfl, decodes .invShiftRows rfl, decodes .mixColumns rfl,
    decodes .invMixColumns rfl, ?_, fun _ => decode_eq_illegal⟩
  · intro v
    simp only [decode_eq_ok_iff]
    exact exists_wf_encode_eq_iff v
  · intro n hlt
    rw [← encode_addRoundKey hlt]
    exact decode_encode (decide_eq_true hlt)

end Sys2Proof

/-! # The constant tables against the arithmetic of GF(2^8) (spec/40_constant_tables.md R76 to R83) -/

namespace Sys2Proof.Machine

/-! ### The multiplication tables

A product by a constant is the sum of the doublings at the bits of that constant (40_constant_tables.md R78). -/

/-- The loop ends with what it has summed (40_constant_tables.md R78). -/
theorem gmulLoop_zero (b a r : Byte) : gmulLoop b 0 a r = r := rfl

/-- One turn of the loop: the bit of `b` decides whether `a` is summed, and `a` doubles (40_constant_tables.md R78). -/
theorem gmulLoop_succ (b : Byte) (n : Nat) (a r : Byte) :
    gmulLoop b (n + 1) a r = gmulLoop b n (xtime a) (if b.getLsbD (7 - n) then r ^^^ a else r) := by
  rw [gmulLoop]

theorem gmul_two (a : Byte) : gmul a 2 = xtime a := by
  simp [gmul, gmulLoop_zero, gmulLoop_succ]

theorem gmul_three (a : Byte) : gmul a 3 = a ^^^ xtime a := by
  simp [gmul, gmulLoop_zero, gmulLoop_succ]

theorem gmul_nine (a : Byte) : gmul a 9 = a ^^^ xtime (xtime (xtime a)) := by
  simp [gmul, gmulLoop_zero, gmulLoop_succ]

theorem gmul_eleven (a : Byte) : gmul a 11 = a ^^^ xtime a ^^^ xtime (xtime (xtime a)) := by
  simp [gmul, gmulLoop_zero, gmulLoop_succ]

theorem gmul_thirteen (a : Byte) : gmul a 13 = a ^^^ xtime (xtime a) ^^^ xtime (xtime (xtime a)) := by
  simp [gmul, gmulLoop_zero, gmulLoop_succ]

theorem gmul_fourteen (a : Byte) : gmul a 14 = xtime a ^^^ xtime (xtime a) ^^^ xtime (xtime (xtime a)) := by
  simp [gmul, gmulLoop_zero, gmulLoop_succ]

/-- Settles O4: a table and the product by its constant are the same sum of doublings. -/
theorem multiplicationTablesAreFieldProducts : Obligations.MultiplicationTablesAreFieldProducts := by
  unfold Obligations.MultiplicationTablesAreFieldProducts
  intro a
  refine ⟨?_, ?_, ?_, ?_, ?_, ?_⟩
  · rw [mul2_eq_xtime, gmul_two]
  · rw [mul3_eq, gmul_three]; ac_rfl
  · rw [mul9_eq, gmul_nine]; ac_rfl
  · rw [mul11_eq, gmul_eleven]; ac_rfl
  · rw [mul13_eq, gmul_thirteen]; ac_rfl
  · rw [mul14_eq, gmul_fourteen]; ac_rfl

/-! ### The substitution boxes -/

/-- Each entry of SBOX stands in INV_SBOX at the place SBOX sends it to (40_constant_tables.md R82). -/
@[simp] theorem invSbox_sbox : ∀ a : Byte, invSbox (sbox a) = a := by decide

/-- SBOX never gives one byte twice: INV_SBOX undoes it (40_constant_tables.md R81). -/
theorem sbox_injective : Function.Injective sbox :=
  Function.LeftInverse.injective invSbox_sbox

/-- On the 256 bytes a left inverse is a right inverse too (40_constant_tables.md R82). -/
@[simp] theorem sbox_invSbox (a : Byte) : sbox (invSbox a) = a :=
  Function.LeftInverse.rightInverse_of_surjective invSbox_sbox
    (Finite.surjective_of_injective sbox_injective) a

/-- Settles O6: INV_SBOX undoes SBOX entry by entry, and SBOX is onto. -/
theorem inverseSboxInvertsSbox : Obligations.InverseSboxInvertsSbox := by
  unfold Obligations.InverseSboxInvertsSbox
  exact fun a => ⟨invSbox_sbox a, sbox_invSbox a⟩

/-- The affine map undone: what SBOX was made from, read off its entry (40_constant_tables.md R81). -/
def unaffine (b : Byte) : Byte :=
  b.rotateRight 2 ^^^ b.rotateRight 5 ^^^ b.rotateRight 7 ^^^ 0x05

/-- `unaffine` undoes the affine map of R81 (40_constant_tables.md R81). -/
theorem affine_unaffine : ∀ b : Byte, affine (unaffine b) = b := by decide

/-- SBOX of 0x00 is made from 0x00 (40_constant_tables.md R81). -/
theorem unaffine_sbox_zero : unaffine (sbox 0) = 0 := by decide

/-- SBOX of any other byte is made from the byte's inverse in GF(2^8) (40_constant_tables.md R76, R81). -/
theorem gmul_unaffine_sbox : ∀ a : Byte, a ≠ 0 → gmul a (unaffine (sbox a)) = 1 := by decide

/-- SBOX has no fixed point (40_constant_tables.md R81). -/
theorem sbox_ne_self : ∀ a : Byte, sbox a ≠ a := by decide

/-- Settles O5: INV_SBOX makes SBOX a permutation, and undoing the affine map on an entry leaves the inverse. -/
theorem sboxIsAffineOfInverse : Obligations.SboxIsAffineOfInverse := by
  unfold Obligations.SboxIsAffineOfInverse
  refine ⟨fun _ _ h => sbox_injective h, fun a => ⟨sbox_ne_self a, unaffine (sbox a), ?_, gmul_unaffine_sbox a, ?_⟩⟩
  · rintro rfl
    exact unaffine_sbox_zero
  · exact (affine_unaffine (sbox a)).symm

/-! ### The round constants -/

/-- Each round constant is the double of the one before (40_constant_tables.md R83). -/
theorem rcon_succ : ∀ j, j < 9 → rcon (j + 1) = xtime (rcon j) := by decide

/-- Settles O7: the table's ten entries start at 0x01 and double. -/
theorem rconIsPowersOfX : Obligations.RconIsPowersOfX := by
  unfold Obligations.RconIsPowersOfX
  exact ⟨rfl, rfl, rcon_succ⟩

end Sys2Proof.Machine

/-! # The round-count selector and KEYEXP's completion (spec/41_key_schedule.md R85 to R92) -/

namespace Sys2Proof.Machine

/-! ### The round-count selector -/

/-- Settles O8: the selector's three lengths are those of the table, and at each Nk and Nr are as the formulas say. -/
theorem roundCountSelector : Obligations.RoundCountSelector := by
  unfold Obligations.RoundCountSelector
  intro len
  have literal (n : BitVec 8) : len = n ↔ len.toNat = n.toNat := BitVec.toNat_inj.symm
  by_cases h : len.toNat ∈ [16, 24, 32]
  · rw [if_pos h]
    obtain rfl | rfl | rfl : len = 16 ∨ len = 24 ∨ len = 32 := by simpa [literal] using h
    all_goals rfl
  · rw [if_neg h]
    obtain ⟨h16, h24, h32⟩ : len ≠ 16 ∧ len ≠ 24 ∧ len ≠ 32 := by simpa [literal] using h
    rw [selectRounds, if_neg h16, if_neg h24, if_neg h32]

/-- A row of the selector's table is what the selector answers (41_key_schedule.md R85). -/
theorem selectRounds_of_mem {len : BitVec 8} {nk nr : Nat}
    (h : (len.toNat, nk, nr) ∈ [(16, 4, 10), (24, 6, 12), (32, 8, 14)]) : selectRounds len = some (nk, nr) := by
  rw [roundCountSelector len]
  obtain ⟨hl, rfl, rfl⟩ | ⟨hl, rfl, rfl⟩ | ⟨hl, rfl, rfl⟩ :
      (len.toNat = 16 ∧ nk = 4 ∧ nr = 10) ∨ (len.toNat = 24 ∧ nk = 6 ∧ nr = 12)
        ∨ (len.toNat = 32 ∧ nk = 8 ∧ nr = 14) := by simpa using h
  all_goals
    rw [hl]
    rfl

/-- Every selected Nk is positive, and its words fit the 32 key bytes (41_key_schedule.md R85). -/
theorem selectRounds_bounds {len : BitVec 8} {nk nr : Nat} (h : selectRounds len = some (nk, nr)) :
    0 < nk ∧ nk ≤ 8 := by
  unfold selectRounds at h
  split_ifs at h <;> cases h <;> decide

/-! ### The words of the expansion -/

/-- A byte of a raw-key word is the key's byte (41_key_schedule.md R89). -/
theorem byteAt_keyWord (key : KeyBytes) (i : Nat) {k : Nat} (hk : k < 4) :
    byteAt (keyWord key i) k = byteAt key (4 * i + k) := by
  interval_cases k <;> rfl

/-- The first Nk words of the expansion are the key's words (41_key_schedule.md R89). -/
theorem wordOf_keyExpansionWords_key (nk nr : Nat) (key : KeyBytes) {i : Nat} (hi : i < nk) :
    wordOf (keyExpansionWords nk nr key) i = keyWord key i := by
  rw [keyExpansionWords, wordOf_expandFrom_old _ _ _ (by simpa using hi)]
  simp [wordOf, hi]

/-- Every later word of the expansion is `w[i-Nk] ^ temp` (41_key_schedule.md R89). -/
theorem wordOf_keyExpansionWords_derived {nk nr : Nat} (key : KeyBytes) {i : Nat} (hpos : 0 < nk) (hle : nk ≤ i)
    (hlt : i < 4 * (nr + 1)) :
    wordOf (keyExpansionWords nk nr key) i = xorWord (wordOf (keyExpansionWords nk nr key) (i - nk))
      (scheduleTemp nk i (wordOf (keyExpansionWords nk nr key) (i - 1))) :=
  wordOf_expandFrom_new nk _ _ hpos (by simp) i hle (by omega)

/-- `temp` byte by byte: RotWord, SubWord and the round constant in the first branch, SubWord alone in the second
(41_key_schedule.md R86 to R89). -/
theorem scheduleTemp_bytes (nk i : Nat) (t0 t1 t2 t3 : Byte) :
    scheduleTemp nk i #v[t0, t1, t2, t3] =
      if i % nk = 0 then #v[sbox t1 ^^^ rcon (i / nk - 1), sbox t2, sbox t3, sbox t0]
      else if nk > 6 ∧ i % nk = 4 then #v[sbox t0, sbox t1, sbox t2, sbox t3]
      else #v[t0, t1, t2, t3] := rfl

/-! ### W after KEYEXP -/

/-- W holds the words of the expansion, byte by byte, and zeros after them (41_key_schedule.md R92). -/
theorem byteAt_loadExpansion_keyExpansion (nk nr : Nat) (key : KeyBytes) {i k : Nat} (hi : i < 60) (hk : k < 4) :
    byteAt (loadExpansion nr (keyExpansion nk nr key)) (4 * i + k)
      = if i < 4 * (nr + 1) then byteAt (wordOf (keyExpansionWords nk nr key) i) k else 0 := by
  have hdiv : (4 * i + k) / 4 = i := by omega
  have hmod : (4 * i + k) % 4 = k := by omega
  have hin : 4 * i + k < 240 := by omega
  have hheld : 4 * i + k < 16 * (nr + 1) ↔ i < 4 * (nr + 1) := by omega
  rw [byteAt_loadExpansion, if_pos hin, keyExpansion_getD, hdiv, hmod]
  simp only [hheld]

/-- KEYEXP's effect at a length the selector maps (41_key_schedule.md R92). -/
theorem keyExpEffect_ok {r : Regs} {nk nr : Nat} (h : selectRounds r.keyLen = some (nk, nr)) :
    keyExpEffect r = .ok { r with
      w := loadExpansion nr (keyExpansion nk nr r.key)
      nk := BitVec.ofNat 4 nk
      nr := BitVec.ofNat 4 nr
      kv := true } := by
  rw [keyExpEffect, h]

/-- Settles O9: the words are those of `keyExpansionWords`, and W is loaded from their bytes. -/
theorem keyExpCompletesByTheRecurrence : Obligations.KeyExpCompletesByTheRecurrence := by
  unfold Obligations.KeyExpCompletesByTheRecurrence
  intro s nk nr hturn hrow
  have hsel : selectRounds s.core.keyLen = some (nk, nr) := selectRounds_of_mem hrow
  obtain ⟨hpos, hkey⟩ := selectRounds_bounds hsel
  refine ⟨wordOf (keyExpansionWords nk nr s.core.key), loadExpansion nr (keyExpansion nk nr s.core.key),
    ?keyWords, ?derivedWords, ?bytesOfW, ?completion⟩
  case keyWords =>
    intro i k hi hk
    rw [wordOf_keyExpansionWords_key nk nr _ hi, getElem?_eq_some_byteAt _ hk,
      getElem?_eq_some_byteAt _ (by omega : 4 * i + k < 32), byteAt_keyWord _ _ hk]
  case derivedWords =>
    intro i hle hlt t0 t1 t2 t3 hprev
    rw [wordOf_keyExpansionWords_derived _ hpos hle hlt, hprev, scheduleTemp_bytes]
  case bytesOfW =>
    intro i k hi hk
    rw [getElem?_eq_some_byteAt _ (by omega : 4 * i + k < 240), byteAt_loadExpansion_keyExpansion nk nr _ hi hk,
      getElem?_eq_some_byteAt _ hk, apply_ite some]
  case completion =>
    rw [exec_core .keyExp hturn]
    exact complete_ok (keyExpEffect_ok hsel)

end Sys2Proof.Machine

/-! # The completions of SUBBYTES, SHIFTROWS and MIXCOLUMNS (spec/42_round_transforms.md R94, R98, R102) -/

namespace Sys2Proof.Machine

/-! ### The frame of a command that maps STATE alone -/

/-- At the core's turn a command whose effect maps STATE leaves the mapped block there, its PENDING, BUSY and DONE are
those of a completion, and nothing else changes (43_cipher_pipelines.md R117). -/
theorem exec_core_blockEffect {i : Instr} {f : Block → Block} {s : State} (hturn : s.turn = .core)
    (heffect : effectOf i = blockEffect f) :
    exec i s = .next { s with core := s.core.completedWith (f s.core.block) } := by
  rw [exec_core i hturn, heffect]
  exact complete_ok (effect := blockEffect f) rfl

/-! ### The bytes of a row and of a column -/

/-- `byteAt` where the register has a byte. -/
theorem byteAt_of_getElem? {n : Nat} {v : Vector Byte n} {j : Nat} {a : Byte} (h : v[j]? = some a) : byteAt v j = a := by
  obtain ⟨hj, hbyte⟩ := Vector.getElem?_eq_some_iff.1 h
  rw [byteAt_eq_getElem v hj, hbyte]

/-- The byte ShiftRows leaves in row r of column c (42_round_transforms.md R98). -/
theorem byteAt_shiftRows_row_column (b : Block) {r c : Nat} (hr : r < 4) (hc : c < 4) :
    byteAt (shiftRows b) (r + 4 * c) = byteAt b (r + 4 * ((c + r) % 4)) := by
  have hrow : (r + 4 * c) % 4 = r := by omega
  have hcolumn : (r + 4 * c) / 4 = c := by omega
  rw [byteAt_shiftRows, if_pos (by omega), hrow, hcolumn]

/-- Row r of column c after a map of columns is read from column c alone (42_round_transforms.md R102). -/
theorem byteAt_mapColumns (f : Nat → Byte → Byte → Byte → Byte → Byte) (b : Block) {r c : Nat} (hr : r < 4)
    (hc : c < 4) :
    byteAt (mapColumns f b) (4 * c + r)
      = f r (byteAt b (4 * c)) (byteAt b (4 * c + 1)) (byteAt b (4 * c + 2)) (byteAt b (4 * c + 3)) := by
  have hrow : (4 * c + r) % 4 = r := by omega
  have hcolumn : (4 * c + r) / 4 = c := by omega
  rw [mapColumns, byteAt_tabulate, if_pos (by omega), hrow, hcolumn]
  simp only [Nat.add_comm]

/-- `byteAt_mapColumns` at a column whose four bytes are given. -/
theorem getElem?_mapColumns (f : Nat → Byte → Byte → Byte → Byte → Byte) (b : Block) {c : Nat} (hc : c < 4)
    {a0 a1 a2 a3 : Byte} (h0 : b[4 * c]? = some a0) (h1 : b[4 * c + 1]? = some a1) (h2 : b[4 * c + 2]? = some a2)
    (h3 : b[4 * c + 3]? = some a3) {r : Nat} (hr : r < 4) :
    (mapColumns f b)[4 * c + r]? = some (f r a0 a1 a2 a3) := by
  rw [getElem?_eq_some_byteAt _ (by omega), byteAt_mapColumns f b hr hc, byteAt_of_getElem? h0, byteAt_of_getElem? h1,
    byteAt_of_getElem? h2, byteAt_of_getElem? h3]

/-! ### The obligations -/

/-- Settles O15: the block is `mixColumns` of STATE, whose row r at each column is `mixByte r` of that column. -/
theorem mixColumnsCompletes : Obligations.MixColumnsCompletes := by
  unfold Obligations.MixColumnsCompletes
  intro s hturn
  refine ⟨mixColumns s.core.block, ?columns, exec_core_blockEffect hturn rfl⟩
  case columns =>
    intro c hc a0 a1 a2 a3 h0 h1 h2 h3
    have row {r : Nat} (hr : r < 4) : (mixColumns s.core.block)[4 * c + r]? = some (mixByte r a0 a1 a2 a3) :=
      getElem?_mapColumns mixByte s.core.block hc h0 h1 h2 h3 hr
    exact ⟨row (r := 0) (by decide), row (r := 1) (by decide), row (r := 2) (by decide), row (r := 3) (by decide)⟩

/-- Settles O11: the block is `subBytes` of STATE. -/
theorem subBytesCompletes : Obligations.SubBytesCompletes := by
  unfold Obligations.SubBytesCompletes
  intro s hturn
  refine ⟨subBytes s.core.block, ?bytes, exec_core_blockEffect hturn rfl⟩
  case bytes =>
    intro i
    have hbyte : byteAt (subBytes s.core.block) i = sbox (byteAt s.core.block i) := by
      rw [byteAt_subBytes, if_pos i.isLt]
    rwa [byteAt_eq_getElem _ i.isLt, byteAt_eq_getElem _ i.isLt] at hbyte

/-- Settles O13: the block is `shiftRows` of STATE. -/
theorem shiftRowsCompletes : Obligations.ShiftRowsCompletes := by
  unfold Obligations.ShiftRowsCompletes
  intro s hturn
  refine ⟨shiftRows s.core.block, ?bytes, exec_core_blockEffect hturn rfl⟩
  case bytes =>
    intro r c hr hc
    rw [getElem?_eq_some_byteAt _ (by omega), getElem?_eq_some_byteAt _ (by omega),
      byteAt_shiftRows_row_column _ hr hc]

end Sys2Proof.Machine

/-! # The round transforms and their named inverses (spec/42_round_transforms.md R95, R99, R103, R106) -/

namespace Sys2Proof.Machine

/-! ### SubBytes, ShiftRows and AddRoundKey -/

@[simp] theorem invSubBytes_subBytes (s : Block) : invSubBytes (subBytes s) = s := by
  apply ext_byteAt
  intro i hi
  rw [byteAt_invSubBytes, if_pos hi, byteAt_subBytes, if_pos hi, invSbox_sbox]

@[simp] theorem subBytes_invSubBytes (s : Block) : subBytes (invSubBytes s) = s := by
  apply ext_byteAt
  intro i hi
  rw [byteAt_subBytes, if_pos hi, byteAt_invSubBytes, if_pos hi, sbox_invSbox]

/-- A row is turned back by as many columns as it was turned (42_round_transforms.md R99). -/
@[simp] theorem invShiftRows_shiftRows (s : Block) : invShiftRows (shiftRows s) = s := by
  apply ext_byteAt
  intro i hi
  rw [byteAt_invShiftRows, if_pos hi, byteAt_shiftRows, if_pos (by omega)]
  congr 1
  omega

@[simp] theorem shiftRows_invShiftRows (s : Block) : shiftRows (invShiftRows s) = s := by
  apply ext_byteAt
  intro i hi
  rw [byteAt_shiftRows, if_pos hi, byteAt_invShiftRows, if_pos (by omega)]
  congr 1
  omega

@[simp] theorem addRoundKey_addRoundKey (s : Block) (w : ExpandedKey) (round : Nat) :
    addRoundKey (addRoundKey s w round) w round = s := by
  apply ext_byteAt
  intro i hi
  rw [byteAt_addRoundKey, if_pos hi, byteAt_addRoundKey, if_pos hi, BitVec.xor_assoc, BitVec.xor_self, BitVec.xor_zero]

/-! ### MixColumns

With T the sum of a column a, MixColumns leaves `2 (a_r ^ a_(r+1)) ^ a_r ^ T` in row r, and T as it was. Twice, it leaves
`a_r ^ 4 (a_r ^ a_(r+2))`. So four times it changes nothing, and three times it is its own inverse. -/

/-- A byte summed twice cancels. -/
theorem byte_xor_cancel_left (a b : Byte) : a ^^^ (a ^^^ b) = b := by
  rw [← BitVec.xor_assoc, BitVec.xor_self, BitVec.zero_xor]

theorem byte_xor_telescope (a b c : Byte) : a ^^^ b ^^^ (b ^^^ c) = a ^^^ c := by
  rw [BitVec.xor_assoc, byte_xor_cancel_left]

/-- Row r of MixColumns, in one formula for the four rows (42_round_transforms.md R102). -/
theorem mixByte_eq (a : Nat → Byte) {r : Nat} (hr : r < 4) :
    mixByte r (a 0) (a 1) (a 2) (a 3)
      = xtime (a r ^^^ a ((r + 1) % 4)) ^^^ (a ((r + 1) % 4) ^^^ a ((r + 2) % 4) ^^^ a ((r + 3) % 4)) := by
  interval_cases r <;> simp only [mixByte, mul2_eq_xtime, mul3_eq, xtime_xor, Nat.reduceAdd, Nat.reduceMod] <;> ac_rfl

/-- Row r of InvMixColumns, in one formula for the four rows (42_round_transforms.md R103). -/
theorem invMixByte_eq (a : Nat → Byte) {r : Nat} (hr : r < 4) :
    invMixByte r (a 0) (a 1) (a 2) (a 3)
      = xtime (xtime (xtime (a 0 ^^^ a 1 ^^^ a 2 ^^^ a 3) ^^^ (a r ^^^ a ((r + 2) % 4))) ^^^ (a r ^^^ a ((r + 1) % 4)))
        ^^^ (a ((r + 1) % 4) ^^^ a ((r + 2) % 4) ^^^ a ((r + 3) % 4)) := by
  interval_cases r <;>
    simp only [invMixByte, mul9_eq, mul11_eq, mul13_eq, mul14_eq, xtime_xor, Nat.reduceAdd, Nat.reduceMod] <;> ac_rfl

/-- The byte in row r of column c. -/
def column (s : Block) (c r : Nat) : Byte := byteAt s (4 * c + r)

/-- The sum of the four bytes of column c. -/
def columnSum (s : Block) (c : Nat) : Byte := column s c 0 ^^^ column s c 1 ^^^ column s c 2 ^^^ column s c 3

/-- Two States with the same columns are equal. -/
theorem ext_column {s t : Block} (h : ∀ c r, c < 4 → r < 4 → column s c r = column t c r) : s = t := by
  apply ext_byteAt
  intro i hi
  have hcell : column s (i / 4) (i % 4) = column t (i / 4) (i % 4) := h _ _ (by omega) (by omega)
  rwa [column, column, Nat.div_add_mod] at hcell

/-- The sum of a column, from row r on. -/
theorem columnSum_eq (s : Block) (c : Nat) {r : Nat} (hr : r < 4) :
    columnSum s c
      = column s c r ^^^ (column s c ((r + 1) % 4) ^^^ column s c ((r + 2) % 4) ^^^ column s c ((r + 3) % 4)) := by
  interval_cases r <;> simp only [columnSum, Nat.reduceAdd, Nat.reduceMod] <;> ac_rfl

/-- The sum of a column's three rows other than r. -/
theorem otherRows_eq (s : Block) (c : Nat) {r : Nat} (hr : r < 4) :
    column s c ((r + 1) % 4) ^^^ column s c ((r + 2) % 4) ^^^ column s c ((r + 3) % 4) = column s c r ^^^ columnSum s c := by
  rw [columnSum_eq s c hr, byte_xor_cancel_left]

theorem column_mixColumns (s : Block) {c r : Nat} (hc : c < 4) (hr : r < 4) :
    column (mixColumns s) c r
      = xtime (column s c r ^^^ column s c ((r + 1) % 4)) ^^^ (column s c r ^^^ columnSum s c) := by
  rw [← otherRows_eq s c hr, ← mixByte_eq (column s c) hr]
  exact byteAt_mapColumns mixByte s hr hc

theorem column_invMixColumns (s : Block) {c r : Nat} (hc : c < 4) (hr : r < 4) :
    column (invMixColumns s) c r
      = xtime (xtime (xtime (columnSum s c) ^^^ (column s c r ^^^ column s c ((r + 2) % 4)))
          ^^^ (column s c r ^^^ column s c ((r + 1) % 4))) ^^^ (column s c r ^^^ columnSum s c) := by
  rw [← otherRows_eq s c hr, columnSum, ← invMixByte_eq (column s c) hr]
  exact byteAt_mapColumns invMixByte s hr hc

/-- Two rows next to each other after MixColumns: what they share cancels in their sum. -/
theorem column_mixColumns_adjacent (s : Block) {c r : Nat} (hc : c < 4) (hr : r < 4) :
    column (mixColumns s) c r ^^^ column (mixColumns s) c ((r + 1) % 4)
      = xtime (column s c r ^^^ column s c ((r + 2) % 4)) ^^^ (column s c r ^^^ column s c ((r + 1) % 4)) := by
  have hr1 : (r + 1) % 4 < 4 := by omega
  have hr2 : ((r + 1) % 4 + 1) % 4 = (r + 2) % 4 := by omega
  rw [column_mixColumns s hc hr, column_mixColumns s hc hr1, hr2]
  generalize column s c r = a, column s c ((r + 1) % 4) = b, column s c ((r + 2) % 4) = d, columnSum s c = t
  calc xtime (a ^^^ b) ^^^ (a ^^^ t) ^^^ (xtime (b ^^^ d) ^^^ (b ^^^ t))
      = xtime (a ^^^ b ^^^ (b ^^^ d)) ^^^ (a ^^^ t ^^^ (t ^^^ b)) := by rw [xtime_xor (a ^^^ b)]; ac_rfl
    _ = xtime (a ^^^ d) ^^^ (a ^^^ b) := by rw [byte_xor_telescope, byte_xor_telescope]

/-- MixColumns keeps the sum of each column. -/
theorem columnSum_mixColumns (s : Block) {c : Nat} (hc : c < 4) : columnSum (mixColumns s) c = columnSum s c := by
  have hrows01 := column_mixColumns_adjacent s hc (r := 0) (by decide)
  have hrows23 := column_mixColumns_adjacent s hc (r := 2) (by decide)
  rw [columnSum, BitVec.xor_assoc, hrows01, hrows23]
  simp only [columnSum, Nat.reduceAdd, Nat.reduceMod]
  rw [BitVec.xor_comm (column s c 2) (column s c 0), BitVec.xor_comm (xtime _) (column s c 0 ^^^ column s c 1),
    byte_xor_telescope, BitVec.xor_assoc _ (column s c 2)]

/-- MixColumns twice: each byte plus four times the sum of the bytes two rows apart. -/
theorem column_mixColumns_mixColumns (s : Block) {c r : Nat} (hc : c < 4) (hr : r < 4) :
    column (mixColumns (mixColumns s)) c r
      = column s c r ^^^ xtime (xtime (column s c r ^^^ column s c ((r + 2) % 4))) := by
  rw [column_mixColumns _ hc hr, columnSum_mixColumns s hc, column_mixColumns_adjacent s hc hr,
    column_mixColumns s hc hr, xtime_xor, BitVec.xor_comm (column s c r) (xtime _)]
  simp only [BitVec.xor_assoc, byte_xor_cancel_left, BitVec.xor_self, BitVec.xor_zero]

/-- MixColumns four times is the identity (42_round_transforms.md R103). -/
theorem mixColumns_four_times (s : Block) : mixColumns (mixColumns (mixColumns (mixColumns s))) = s := by
  apply ext_column
  intro c r hc hr
  have hr2 : (r + 2) % 4 < 4 := by omega
  have hback : ((r + 2) % 4 + 2) % 4 = r := by omega
  rw [column_mixColumns_mixColumns _ hc hr, column_mixColumns_mixColumns s hc hr, column_mixColumns_mixColumns s hc hr2,
    hback, BitVec.xor_comm (column s c ((r + 2) % 4)) (column s c r),
    BitVec.xor_comm (column s c ((r + 2) % 4)) (xtime _), byte_xor_telescope, BitVec.xor_assoc, BitVec.xor_self,
    BitVec.xor_zero]

/-- InvMixColumns is MixColumns three times (42_round_transforms.md R103). -/
theorem invMixColumns_eq_mixColumns_three_times (s : Block) : invMixColumns s = mixColumns (mixColumns (mixColumns s)) := by
  apply ext_column
  intro c r hc hr
  have hr1 : (r + 1) % 4 < 4 := by omega
  have hr3 : ((r + 1) % 4 + 2) % 4 = (r + 3) % 4 := by omega
  rw [column_invMixColumns s hc hr, column_mixColumns _ hc hr, columnSum_mixColumns _ hc, columnSum_mixColumns s hc,
    column_mixColumns_mixColumns s hc hr, column_mixColumns_mixColumns s hc hr1, hr3, columnSum_eq s c hr]
  simp only [xtime_xor]
  ac_rfl

@[simp] theorem invMixColumns_mixColumns (s : Block) : invMixColumns (mixColumns s) = s := by
  rw [invMixColumns_eq_mixColumns_three_times, mixColumns_four_times]

@[simp] theorem mixColumns_invMixColumns (s : Block) : mixColumns (invMixColumns s) = s := by
  rw [invMixColumns_eq_mixColumns_three_times, mixColumns_four_times]

end Sys2Proof.Machine

/-! # The cipher pipelines, ENCRYPT and DECRYPT (spec/43_cipher_pipelines.md R109 to R116) -/

namespace Sys2Proof.Machine

/-! ### A loop over the rounds -/

/-- The loop `for r = 1 to n` of a pipeline, from block s (43_cipher_pipelines.md R109, R110). -/
def runRounds (f : Block → Nat → Block) (s : Block) (n : Nat) : Block := (List.range' 1 n).foldl f s

@[simp] theorem runRounds_zero (f : Block → Nat → Block) (s : Block) : runRounds f s 0 = s := rfl

/-- The loop's last pass is that of round n + 1. -/
theorem runRounds_succ (f : Block → Nat → Block) (s : Block) (n : Nat) :
    runRounds f s (n + 1) = f (runRounds f s n) (n + 1) := by
  simp [runRounds, List.range'_1_concat, Nat.add_comm]

/-- When pass r of g undoes the r-th last of f's n passes, k passes of g after them leave f's first n - k. -/
theorem runRounds_undo {f g : Block → Nat → Block} {n : Nat}
    (hundo : ∀ s r, 1 ≤ r → r ≤ n → g (f s (n + 1 - r)) r = s) (s : Block) {k : Nat} (hk : k ≤ n) :
    runRounds g (runRounds f s n) k = runRounds f s (n - k) := by
  induction k with
  | zero => rfl
  | succ k ih =>
    have hpass : n - k = n - (k + 1) + 1 := by omega
    have hround : n - (k + 1) + 1 = n + 1 - (k + 1) := by omega
    rw [runRounds_succ, ih (by omega), hpass, runRounds_succ, hround, hundo _ _ (by omega) hk]

/-! ### The pipelines undo each other -/

theorem cipher_eq_runRounds (p : Block) (w : ExpandedKey) (nr : Nat) :
    cipher p w nr
      = addRoundKey (shiftRows (subBytes (runRounds (cipherRound w) (addRoundKey p w 0) (nr - 1)))) w nr :=
  cipher_eq p w nr

theorem invCipher_eq_runRounds (p : Block) (w : ExpandedKey) (nr : Nat) :
    invCipher p w nr
      = addRoundKey (runRounds (invCipherRound w nr) (invSubBytes (invShiftRows (addRoundKey p w nr))) (nr - 1)) w 0 :=
  invCipher_eq p w nr

/-- The inverse round that reads a round key undoes the forward round that reads it. -/
theorem invCipherRound_cipherRound (w : ExpandedKey) (nr r : Nat) (s : Block) :
    invCipherRound w nr (cipherRound w s (nr - r)) r = s := by
  simp [invCipherRound, cipherRound]

theorem cipherRound_invCipherRound (w : ExpandedKey) {nr r : Nat} (h : r ≤ nr) (s : Block) :
    cipherRound w (invCipherRound w nr s (nr - r)) r = s := by
  simp [invCipherRound, cipherRound, Nat.sub_sub_self h]

/-- Decryption undoes encryption: after its k-th inverse round stands what stood before the k-th last forward round. -/
theorem invCipher_cipher (p : Block) (w : ExpandedKey) {nr : Nat} (hpos : 0 < nr) : invCipher (cipher p w nr) w nr = p := by
  obtain ⟨n, rfl⟩ : ∃ n, nr = n + 1 := Nat.exists_eq_add_one.2 hpos
  have hrounds := runRounds_undo (n := n) (fun s r _ _ => invCipherRound_cipherRound w (n + 1) r s)
    (addRoundKey p w 0) le_rfl
  simp [invCipher_eq_runRounds, cipher_eq_runRounds, hrounds]

theorem cipher_invCipher (p : Block) (w : ExpandedKey) {nr : Nat} (hpos : 0 < nr) : cipher (invCipher p w nr) w nr = p := by
  obtain ⟨n, rfl⟩ : ∃ n, nr = n + 1 := Nat.exists_eq_add_one.2 hpos
  have hrounds := runRounds_undo (n := n) (fun s r _ hr => cipherRound_invCipherRound w (Nat.le_succ_of_le hr) s)
    (invSubBytes (invShiftRows (addRoundKey p w (n + 1)))) le_rfl
  simp [invCipher_eq_runRounds, cipher_eq_runRounds, hrounds]

/-- Settles O27: each inverse round undoes the forward round of its key, and the three legal round counts are positive. -/
theorem pipelinesAreMutualInverses : Obligations.PipelinesAreMutualInverses := by
  unfold Obligations.PipelinesAreMutualInverses
  intro p w nr hnr
  have hpos : 0 < nr := Nat.pos_of_ne_zero fun hzero => absurd (hzero ▸ hnr) (by decide)
  exact ⟨invCipher_cipher p w hpos, cipher_invCipher p w hpos⟩

/-! ### ENCRYPT and DECRYPT complete -/

/-- A pipeline's effect with a key held and the invariant (43_cipher_pipelines.md R113). -/
theorem pipelineEffect_ok (f : Block → ExpandedKey → Nat → Block) {r : Regs} (hkv : r.kv = true) (hwf : r.wf = true) :
    pipelineEffect f r = .ok { r with block := f r.block r.w r.nr.toNat } := by
  simp [pipelineEffect, hkv, hwf]

/-- At the core's turn a pipeline command leaves the pipeline's result in STATE, its PENDING, BUSY and DONE are those of a
completion, and nothing else changes (43_cipher_pipelines.md R117). -/
theorem exec_core_pipelineEffect {i : Instr} {f : Block → ExpandedKey → Nat → Block} {s : State} (hturn : s.turn = .core)
    (hkv : s.core.kv = true) (hwf : s.core.wf = true) (heffect : effectOf i = pipelineEffect f) :
    exec i s = .next (s.withCore (s.core.completedWith (f s.core.block s.core.w s.core.nr.toNat))) := by
  rw [exec_core i hturn, heffect]
  exact complete_ok (pipelineEffect_ok f hkv hwf)

/-- The block that stands after round r of a loop, r positive, is that round of the block before. -/
theorem runRounds_pos (f : Block → Nat → Block) (s : Block) {r : Nat} (hpos : 1 ≤ r) :
    runRounds f s r = f (runRounds f s (r - 1)) r := by
  obtain ⟨n, rfl⟩ : ∃ n, r = n + 1 := Nat.exists_eq_add_one.2 hpos
  exact runRounds_succ f s n

/-- Settles O19: the stages are what the forward loop has computed after each round. -/
theorem encryptRunsTheForwardPipeline : Obligations.EncryptRunsTheForwardPipeline := by
  unfold Obligations.EncryptRunsTheForwardPipeline
  intro s hturn hkv hwf
  refine ⟨runRounds (cipherRound s.core.w) (addRoundKey s.core.block s.core.w 0), rfl, ?rounds, ?completion⟩
  case rounds => exact fun r hpos _ => runRounds_pos _ _ hpos
  case completion => rw [exec_core_pipelineEffect hturn hkv hwf rfl, cipher_eq_runRounds]

/-- Settles O20: the stages are what the inverse loop has computed after each round. -/
theorem decryptRunsTheInversePipeline : Obligations.DecryptRunsTheInversePipeline := by
  unfold Obligations.DecryptRunsTheInversePipeline
  intro s hturn hkv hwf
  refine ⟨runRounds (invCipherRound s.core.w s.core.nr.toNat)
    (invSubBytes (invShiftRows (addRoundKey s.core.block s.core.w s.core.nr.toNat))), rfl, ?rounds, ?completion⟩
  case rounds => exact fun r hpos _ => runRounds_pos _ _ hpos
  case completion => rw [exec_core_pipelineEffect hturn hkv hwf rfl, invCipher_eq_runRounds]

end Sys2Proof.Machine

/-! # When the interrupt output rises and falls (spec/60_exceptions.md R124) -/

namespace Sys2Proof.Machine

/-! ### The interrupt output after each change of the registers -/

/-- irq is the conjunction of the enable and the pending bit (60_exceptions.md R124). -/
theorem irq_eq_true_iff (r : Regs) : irq r = true ↔ r.ie = true ∧ r.done = true := Bool.and_eq_true_iff

@[simp] theorem irq_markAccepted (i : Instr) (r : Regs) : irq (markAccepted i r) = false := by
  simp [irq]

@[simp] theorem irq_markError (e : CmdError) (r : Regs) : irq (markError e r) = r.ie := by
  simp [irq]

@[simp] theorem irq_markCompleted (r : Regs) : irq (markCompleted r) = r.ie := by
  simp [irq]

@[simp] theorem irq_markDropped (r : Regs) : irq (markDropped r) = irq r := rfl

@[simp] theorem irq_reset : irq Regs.reset = false := rfl

/-- A STATUS write with bit 1 set takes the interrupt back (10_state.md R40). -/
theorem irq_writeStatus_of_bit1 {v : Word} (hbit : v.getLsbD 1 = true) (r : Regs) : irq (writeStatus v r) = false := by
  simp [irq, hbit]

/-! ### Commands -/

/-- irq after a command is issued: low once accepted, IE once refused by its check, unchanged when dropped
(60_exceptions.md R124). -/
theorem irq_issue (i : Instr) (check : Regs → Option CmdError) (s : State) :
    (s.core.busy = false → (issue i check s).core.busy = true → irq (issue i check s).core = false)
      ∧ (s.core.busy = false → (issue i check s).core.busy = false → irq (issue i check s).core = s.core.ie)
      ∧ (s.core.busy = true → irq (issue i check s).core = irq s.core) := by
  rcases issue_cases i check s with ⟨hbusy, h⟩ | ⟨hidle, e, -, h⟩ | ⟨hidle, -, h⟩ <;> rw [h]
  · simp [hbusy]
  · simp [hidle]
  · simp [hidle]

/-- irq after a completion is IE: DONE is set, and no command's effect changes IE (43_cipher_pipelines.md R117). -/
theorem irq_complete {i : Instr} {s t : State} (h : complete (effectOf i) s = .next t) : irq t.core = s.core.ie := by
  obtain ⟨r, heffect, rfl⟩ := complete_next h
  obtain ⟨hie, -⟩ := effectOf_frame heffect
  simp [hie]

/-! ### Steps -/

/-- A transaction answered with an error was refused, and a refusal changes no register (60_exceptions.md R121). -/
theorem step_core_of_error {s t : State} {q : Request} {d : Option Word} (hq : s.inputs.head? = some (.host q))
    (h : step s = .next t) (herror : t.last = some { req := q, rdata := d, error := true }) : t.core = s.core := by
  rw [step_of_host hq] at h
  cases hacc : acceptedReg ((s.withInputs s.inputs.tail).withTurn .host) q with
  | none =>
    rw [hostStep_of_refused hacc] at h
    injection h with h
    rw [← h]
    rfl
  | some g =>
    obtain ⟨t', d', ht', hlast, -, -⟩ := hostStep_of_accepted hacc rfl
    obtain rfl : t' = t := by simpa [ht'] using h
    simp [hlast] at herror

/-- OVR changes only by a dropped write, a STATUS write or reset (10_state.md R37). -/
theorem CoreChange.ovr_ne {s : State} {r : Regs} (h : CoreChange s r) (hovr : r.ovr ≠ s.core.ovr) :
    r = markDropped s.core ∨ (∃ v, Presents s (wr 0x004 v)) ∨ s.inputs.head? = some .assertRst := by
  cases h with
  | dropped => exact .inl rfl
  | status v hv => exact .inr (.inl ⟨v, hv⟩)
  | reset hrst => exact .inr (.inr hrst)
  | completed i r _ _ heffect =>
    obtain ⟨-, -, -, hkeep, -⟩ := effectOf_frame heffect
    exact absurd hkeep hovr
  | none | ctrl | keyLen | block | key | refused | accepted => exact absurd rfl hovr

/-- A transaction outside STATUS that changes OVR is a dropped write (70_reset_and_hazards.md R135). -/
theorem step_core_of_ovr_ne {s t : State} {q : Request} (hq : s.inputs.head? = some (.host q)) (h : step s = .next t)
    (hovr : t.core.ovr ≠ s.core.ovr) (hoff : q.off.toNat ≠ 0x004) : t.core = markDropped s.core := by
  rcases (step_coreChange h).ovr_ne hovr with hdrop | ⟨v, hv, -⟩ | hrst
  · exact hdrop
  · obtain rfl : q = wr 0x004 v := by simpa [hq] using hv
    exact absurd rfl hoff
  · simp [hq] at hrst

/-- The step that asserts rst leaves the reset registers (70_reset_and_hazards.md R131). -/
theorem step_core_of_assertRst {s t : State} (hrst : s.inputs.head? = some .assertRst) (h : step s = .next t) :
    t.core = Regs.reset := by
  rcases step_cases s with ⟨e, es, he, hs⟩ | ⟨he, -⟩
  · obtain rfl : e = .assertRst := by simpa [he] using hrst
    rw [hs] at h
    injection h with h
    rw [← h]
    rfl
  · simp [he] at hrst

/-- Settles O47: each clause names the change of the registers its step makes, and irq after that change is known. -/
theorem interruptFollowsEnableAndDone : Obligations.InterruptFollowsEnableAndDone := by
  unfold Obligations.InterruptFollowsEnableAndDone
  refine ⟨irq_eq_true_iff, ?issued, ?completed, ?statusWrite, ?reset, ?transaction⟩
  case issued =>
    intro i s t hturn h
    rw [exec_host i hturn] at h
    injection h with h
    rw [← h]
    exact irq_issue i (checkOf i) s
  case completed =>
    intro i s t hturn h
    rw [exec_core i hturn] at h
    exact irq_complete h
  case statusWrite =>
    intro s t v hv hbit h
    rw [statusWriteClearsByOnes s v hv] at h
    injection h with h
    rw [← h]
    exact irq_writeStatus_of_bit1 hbit s.core
  case reset =>
    intro s t hrst h
    rw [step_core_of_assertRst hrst h, irq_reset]
  case transaction =>
    intro s t q hq h
    constructor
    · rintro ⟨d, herror⟩
      rw [step_core_of_error hq h herror]
    · intro hovr _ hoff
      rw [step_core_of_ovr_ne hq h hovr hoff, irq_markDropped]

end Sys2Proof.Machine

/-! # Reset, and the writes a busy core drops (spec/70_reset_and_hazards.md R131, R135) -/

namespace Sys2Proof.Machine

/-! ### Writes while busy -/

/-- The aligned offsets 0x008 to 0x03C are those of CMD, KEYLEN, STATE and KEY (20_memory.md R49). -/
theorem regAt_commandOrOperand {off : BitVec 9} (ha : off.toNat % 4 = 0) (hlow : 0x008 ≤ off.toNat)
    (hhigh : off.toNat < 0x040) :
    ∃ g, regAt off = some g ∧ g.readOnly = false ∧ g ≠ .ctrl ∧ g ≠ .status := by
  have hmapped : regAt off ≠ none := mt (regAt_eq_none_iff off).1 (by omega)
  obtain ⟨g, hg⟩ := Option.ne_none_iff_exists'.1 hmapped
  obtain ⟨hctrl, hstatus, -⟩ := regAt_aligned hg ha
  refine ⟨g, hg, ?writable, ?notCtrl, ?notStatus⟩
  case writable =>
    rw [← Bool.not_eq_true, readOnly_iff_of_regAt hg]
    omega
  case notCtrl =>
    intro h
    simp [hctrl h] at hlow
  case notStatus =>
    intro h
    simp [hstatus h] at hlow

/-- While busy a write to a register other than CTRL, STATUS and CMD is dropped (70_reset_and_hazards.md R135). -/
theorem writeReg_of_busy {g : Reg} {r : Regs} (v : Word) (hbusy : r.busy = true) (hw : g.readOnly = false)
    (hctrl : g ≠ .ctrl) (hstatus : g ≠ .status) (hcmd : g ≠ .cmd) : writeReg g v r = markDropped r := by
  cases g with
  | ctrl => exact absurd rfl hctrl
  | status => exact absurd rfl hstatus
  | cmd => exact absurd rfl hcmd
  | rkey i => simp [Reg.readOnly] at hw
  | keyLen | state m | key m => simp [writeReg, writeUnlessBusy, hbusy]

/-- While busy a CMD write is dropped, whether its value is a command or not (60_exceptions.md R119). -/
theorem writeCmd_of_busy (v : Word) {s : State} (hturn : s.turn = .host) (hbusy : s.core.busy = true) :
    writeCmd v s = .next (s.withCore (markDropped s.core)) := by
  rcases writeCmd_cases v hturn with ⟨i, -, h⟩ | ⟨-, h⟩
  · simp [h, issue, hbusy]
  · simp [h, issueIllegal, hbusy]

/-- A presented write to CMD (30_encoding.md R67). -/
theorem step_write_cmd {s : State} {off : BitVec 9} {v : Word} (h : Presents s (wr off v)) (ha : off.toNat % 4 = 0)
    (hg : regAt off = some .cmd) : step s = writeCmd v (s.answered (wr off v) none s.core) := by
  have hacc : acceptedReg ((s.withInputs s.inputs.tail).withTurn .host) (wr off v) = some .cmd :=
    acceptedReg_eq_some h.2 rfl ha hg fun _ => rfl
  rw [step_of_presents h, hostStep, hacc, answered_core_eq_answer]
  simp [wr, writeAccepted]

/-- While busy a presented write to a writable register other than CTRL and STATUS is answered with no error and dropped
(70_reset_and_hazards.md R135). -/
theorem step_write_of_busy {s : State} {off : BitVec 9} {v : Word} {g : Reg} (h : Presents s (wr off v))
    (hbusy : s.core.busy = true) (ha : off.toNat % 4 = 0) (hg : regAt off = some g) (hw : g.readOnly = false)
    (hctrl : g ≠ .ctrl) (hstatus : g ≠ .status) :
    step s = .next (s.answered (wr off v) none (markDropped s.core)) := by
  by_cases hcmd : g = .cmd
  · rw [step_write_cmd h ha (hcmd ▸ hg)]
    exact writeCmd_of_busy v rfl hbusy
  · rw [step_write h ha hg hw hcmd, writeReg_of_busy v hbusy hw hctrl hstatus hcmd]

/-- Settles O32: the offsets of the first clause name the registers whose writes a busy core drops, and a write to CTRL or
to STATUS does not ask for BUSY. -/
theorem writesWhileBusyAreDropped : Obligations.WritesWhileBusyAreDropped := by
  unfold Obligations.WritesWhileBusyAreDropped
  intro s v hbusy
  refine ⟨?dropped, (ctrlHoldsTheInterruptEnable s v 0).1, statusWriteClearsByOnes s v⟩
  case dropped =>
    intro m hlow hhigh h
    have hoff : (BitVec.ofNat 9 (4 * m)).toNat = 4 * m := by
      rw [BitVec.toNat_ofNat]
      omega
    have ha : (BitVec.ofNat 9 (4 * m)).toNat % 4 = 0 := by omega
    obtain ⟨g, hg, hw, hctrl, hstatus⟩ := regAt_commandOrOperand ha (by omega) (by omega)
    exact step_write_of_busy h hbusy ha hg hw hctrl hstatus

/-! ### Reset -/

/-- The step of an rst assertion at the head of the schedule (70_reset_and_hazards.md R131). -/
theorem step_of_assertRst {s : State} (h : s.inputs.head? = some .assertRst) :
    step s = .next (s.withInputs s.inputs.tail).assertRst := by
  rcases step_cases s with ⟨e, es, he, hs⟩ | ⟨he, -⟩
  · obtain rfl : e = .assertRst := by simpa [he] using h
    rw [hs, he]
    rfl
  · simp [he] at h

/-- While rst is asserted every transaction is refused (20_memory.md R56). -/
theorem step_of_host_of_rst {s : State} {q : Request} (hrst : s.rst = true) (h : s.inputs.head? = some (.host q)) :
    step s = .next (((s.withInputs s.inputs.tail).withTurn .host).refuse q) := by
  have hnone : acceptedReg ((s.withInputs s.inputs.tail).withTurn .host) q = none := by
    simp [acceptedReg, hrst]
  rw [step_of_host h, hostStep_of_refused hnone]

/-- While rst is asserted the core's step does nothing (70_reset_and_hazards.md R131). -/
theorem coreStep_of_rst {s : State} (hrst : s.rst = true) : coreStep s = .next s := by
  simp [coreStep, completionEnabled, hrst]

/-- While rst is asserted a scheduled completion and an empty schedule change no register (70_reset_and_hazards.md R131). -/
theorem step_of_complete_of_rst {s : State} (hrst : s.rst = true)
    (h : s.inputs = [] ∨ s.inputs.head? = some .complete) : step s = .next (s.withInputs s.inputs.tail) := by
  rcases step_cases s with ⟨e, es, he, hs⟩ | ⟨he, hs⟩
  · obtain rfl : e = .complete := by simpa [he] using h
    rw [hs, he]
    exact coreStep_of_rst hrst
  · rw [hs, coreStep_of_rst hrst, he, List.tail_nil, ← he]
    rfl

/-- Settles O45: the three kinds of step are known, and every byte register of the reset value is all 0x00. -/
theorem resetClearsEverything : Obligations.ResetClearsEverything := by
  unfold Obligations.ResetClearsEverything
  refine ⟨?assert, ?refused, ?noCompletion⟩
  case assert =>
    intro s h
    exact ⟨_, step_of_assertRst h, rfl, rfl, rfl, rfl, rfl, rfl, rfl, rfl, rfl, rfl, rfl,
      fun i => Vector.getElem_replicate i.isLt, fun i => Vector.getElem_replicate i.isLt,
      fun i => Vector.getElem_replicate i.isLt⟩
  case refused =>
    intro s q hrst h
    exact ⟨_, _, step_of_host_of_rst hrst h, rfl, rfl⟩
  case noCompletion =>
    intro s hrst h
    exact ⟨_, step_of_complete_of_rst hrst h, rfl⟩

end Sys2Proof.Machine

/-! # The invariant of reachable states (spec/10_state.md R23, R30, spec/60_exceptions.md R122) -/

namespace Sys2Proof.Machine

/-! ### The registers' invariant, part by part -/

/-- What the invariant says of the held key: legal counts and a zero tail with a key, zero counts without one
(10_state.md R23, R30). -/
def Regs.keyWf (r : Regs) : Bool :=
  if r.kv then legalRounds r.nk r.nr && zeroTail r else r.nk == 0 && r.nr == 0

/-- The four parts of `Regs.wf` (10_state.md R23). -/
theorem Regs.wf_iff (r : Regs) :
    r.wf = true ↔ r.busy = r.pending.isSome ∧ (r.busy = true → r.done = false ∧ r.err = 0) ∧ r.keyWf = true
      ∧ r.err.toNat ≤ 4 := by
  simp only [Regs.wf, Regs.keyWf, Bool.and_eq_true, decide_eq_true_eq, beq_iff_eq, and_assoc]
  cases r.busy <;> simp

theorem Regs.keyWf_congr {r r' : Regs} (hkv : r'.kv = r.kv) (hnk : r'.nk = r.nk) (hnr : r'.nr = r.nr) (hw : r'.w = r.w) :
    r'.keyWf = r.keyWf := by
  simp only [Regs.keyWf, zeroTail, hkv, hnk, hnr, hw]

/-- An idle core has no command in flight (10_state.md R23). -/
theorem pending_eq_none_of_wf {r : Regs} (h : r.wf = true) (hidle : r.busy = false) : r.pending = none := by
  obtain ⟨hbusy, -⟩ := r.wf_iff.1 h
  simpa [hidle] using hbusy

/-- A busy core has one (10_state.md R23). -/
theorem exists_pending_of_wf {r : Regs} (h : r.wf = true) (hbusy : r.busy = true) : ∃ i, r.pending = some i := by
  obtain ⟨hpending, -⟩ := r.wf_iff.1 h
  exact Option.isSome_iff_exists.1 (hpending ▸ hbusy)

/-- A held key has one of the three pairs of counts (10_state.md R23). -/
theorem legalRounds_iff (nk nr : BitVec 4) :
    legalRounds nk nr = true ↔ (nk, nr) ∈ [(4#4, 10#4), (6#4, 12#4), (8#4, 14#4)] := by
  simp [legalRounds, or_assoc]

/-- A held key has at most 14 rounds, and not none (00_scope.md R11). -/
theorem nr_bounds_of_wf {r : Regs} (h : r.wf = true) (hkv : r.kv = true) : 0 < r.nr.toNat ∧ r.nr.toNat ≤ 14 := by
  obtain ⟨-, -, hkey, -⟩ := r.wf_iff.1 h
  obtain ⟨hlegal, -⟩ : legalRounds r.nk r.nr = true ∧ zeroTail r = true := by simpa [Regs.keyWf, hkv] using hkey
  have bounds : ∀ nk nr : BitVec 4, legalRounds nk nr = true → 0 < nr.toNat ∧ nr.toNat ≤ 14 := by decide
  exact bounds _ _ hlegal

theorem CmdError.code_le (e : CmdError) : e.code.toNat ≤ 4 := by
  cases e <;> decide

/-! ### Each change of the registers keeps the invariant -/

theorem wf_writeStatus {r : Regs} (h : r.wf = true) (v : Word) : (writeStatus v r).wf = true := by
  obtain ⟨hbusy, hflags, hkey, herr⟩ := r.wf_iff.1 h
  refine (Regs.wf_iff _).2 ⟨hbusy, ?_, hkey, ?_⟩
  · intro hb
    obtain ⟨hdone, herr⟩ := hflags hb
    simp [hdone, herr]
  · rw [writeStatus_err]
    split
    · decide
    · exact herr

theorem wf_markError {r : Regs} (h : r.wf = true) (hidle : r.busy = false) (e : CmdError) :
    (markError e r).wf = true := by
  obtain ⟨hbusy, -, hkey, -⟩ := r.wf_iff.1 h
  exact (Regs.wf_iff _).2 ⟨hbusy, fun hb => absurd hb (by simp [hidle]), hkey, e.code_le⟩

theorem wf_markAccepted {r : Regs} (h : r.wf = true) (i : Instr) : (markAccepted i r).wf = true := by
  obtain ⟨-, -, hkey, -⟩ := r.wf_iff.1 h
  exact (Regs.wf_iff _).2 ⟨rfl, fun _ => ⟨rfl, rfl⟩, hkey, Nat.zero_le 4⟩

/-- KEYEXP leaves a held key: legal counts, and zeros after the expansion (41_key_schedule.md R92). -/
theorem keyWf_of_keyExpEffect {r r' : Regs} (h : keyExpEffect r = .ok r') : r'.kv = true ∧ r'.keyWf = true := by
  unfold keyExpEffect at h
  split at h
  case h_2 => cases h
  case h_1 nk nr hsel =>
    cases h
    obtain ⟨hlegal, hnr⟩ : legalRounds (BitVec.ofNat 4 nk) (BitVec.ofNat 4 nr) = true
        ∧ (BitVec.ofNat 4 nr).toNat = nr := by
      unfold selectRounds at hsel
      split_ifs at hsel <;> cases hsel <;> decide
    have htail : ∀ j, j < 240 → ((BitVec.ofNat 4 nr).toNat + 1) * 16 ≤ j →
        byteAt (loadExpansion nr (keyExpansion nk nr r.key)) j = 0 := by
      intro j hj hpast
      rw [byteAt_loadExpansion, if_pos hj, if_neg (by omega)]
    refine ⟨rfl, ?_⟩
    simp only [Regs.keyWf, if_true, Bool.and_eq_true]
    exact ⟨hlegal, (zeroTail_iff _).2 htail⟩

/-- A command's effect leaves a well-formed key where there was one (43_cipher_pipelines.md R117). -/
theorem keyWf_of_effectOf {i : Instr} {r r' : Regs} (heffect : effectOf i r = .ok r') (h : r.keyWf = true) :
    r'.keyWf = true := by
  by_cases hi : i = .keyExp
  · subst hi
    exact (keyWf_of_keyExpEffect heffect).2
  · obtain ⟨-, -, -, -, -, -, -, -, hkept, -⟩ := effectOf_frame heffect
    obtain ⟨hw, hnk, hnr, hkv⟩ := hkept hi
    rwa [Regs.keyWf_congr hkv hnk hnr hw]

theorem wf_markCompleted {i : Instr} {r r' : Regs} (h : r.wf = true) (heffect : effectOf i r = .ok r') :
    (markCompleted r').wf = true := by
  obtain ⟨-, -, hkey, herr⟩ := r.wf_iff.1 h
  obtain ⟨-, -, -, -, herr', -⟩ := effectOf_frame heffect
  refine (Regs.wf_iff _).2 ⟨rfl, ?idle, ?key, ?err⟩
  case idle => simp
  case key =>
    have hkept : r'.keyWf = true := keyWf_of_effectOf heffect hkey
    exact hkept
  case err => rwa [markCompleted_err, herr']

theorem Regs.wf_reset : Regs.reset.wf = true := by decide

/-- Every change of the registers that a step can make keeps their invariant (10_state.md R23). -/
theorem CoreChange.keeps_wf {s : State} {r : Regs} (h : CoreChange s r) (hwf : s.core.wf = true) : r.wf = true := by
  cases h with
  | none | ctrl | dropped | keyLen | block | key => exact hwf
  | status v => exact wf_writeStatus hwf v
  | refused e hidle => exact wf_markError hwf hidle e
  | accepted i => exact wf_markAccepted hwf i
  | completed i r _ _ heffect => exact wf_markCompleted hwf heffect
  | reset => exact Regs.wf_reset

/-! ### The command in flight stays an accepted one -/

/-- A check reads KEYLEN, KV and NR alone (60_exceptions.md R119). -/
theorem checkOf_congr (i : Instr) {r r' : Regs} (hlen : r'.keyLen = r.keyLen) (hkv : r'.kv = r.kv) (hnr : r'.nr = r.nr) :
    checkOf i r' = checkOf i r := by
  cases i <;> simp only [checkOf, checkNone, checkKeyLength, checkKeyHeld, checkRound, hlen, hkv, hnr]

theorem pendingAccepted_of_none {r : Regs} (h : r.pending = none) : pendingAccepted r = true := by
  simp [pendingAccepted_iff, h]

theorem pendingAccepted_markAccepted {i : Instr} {r : Regs} (hcheck : checkOf i r = none) :
    pendingAccepted (markAccepted i r) = true := by
  rw [pendingAccepted_iff]
  intro j hj
  obtain rfl : i = j := by simpa using hj
  have hsame : checkOf i (markAccepted i r) = checkOf i r := checkOf_congr i rfl rfl rfl
  rw [hsame, hcheck]

/-- Every change of the registers that a step can make leaves in flight an accepted command or none
(60_exceptions.md R122). -/
theorem CoreChange.keeps_pendingAccepted {s : State} {r : Regs} (h : CoreChange s r) (hinv : Invariant s) :
    pendingAccepted r = true := by
  obtain ⟨hwf, hacc⟩ := hinv
  have hnone (hidle : s.core.busy = false) : s.core.pending = Option.none := pending_eq_none_of_wf hwf hidle
  cases h with
  | none | ctrl | status | dropped => exact hacc
  | keyLen v hidle | block m v hidle | key m v hidle | refused e hidle =>
    exact pendingAccepted_of_none (hnone hidle)
  | accepted i _ hcheck => exact pendingAccepted_markAccepted hcheck
  | completed | reset => exact pendingAccepted_of_none rfl

/-! ### The obligations -/

/-- Settles O50: a step changes the registers in one of the ways of `CoreChange`, and each of them keeps both parts. -/
theorem everyStepKeepsTheInvariant : Obligations.EveryStepKeepsTheInvariant := by
  unfold Obligations.EveryStepKeepsTheInvariant
  intro s t hinv h
  have hchange := step_coreChange h
  exact ⟨hchange.keeps_wf hinv.1, hchange.keeps_pendingAccepted hinv⟩

/-- Settles O49: at reset every register is 0 and no command is in flight. -/
theorem invariantHoldsAtReset : Obligations.InvariantHoldsAtReset := by
  unfold Obligations.InvariantHoldsAtReset
  exact ⟨Regs.wf_reset, pendingAccepted_of_none rfl⟩

/-- Settles O46: the reset value of every flag and count is 0 (10_state.md R46). -/
theorem resetStateIsIdleWithoutKey : Obligations.ResetStateIsIdleWithoutKey := by
  unfold Obligations.ResetStateIsIdleWithoutKey
  exact ⟨rfl, rfl, rfl, rfl, rfl, rfl, rfl, rfl, rfl⟩

/-- What the invariant says of the held key, as the spec writes it (10_state.md R23, R30). -/
theorem Regs.keyWf_iff (r : Regs) :
    r.keyWf = true ↔ (r.kv = false ↔ r.nk = 0) ∧ (r.kv = false ↔ r.nr = 0)
      ∧ (r.kv = true → (r.nk, r.nr) ∈ [(4#4, 10#4), (6#4, 12#4), (8#4, 14#4)])
      ∧ (r.kv = true → ∀ j : Fin 240, (r.nr.toNat + 1) * 16 ≤ j.val → r.w[j] = 0) := by
  cases hkv : r.kv with
  | false => simp [Regs.keyWf, hkv]
  | true =>
    have htail : zeroTail r = true ↔ ∀ j : Fin 240, (r.nr.toNat + 1) * 16 ≤ j.val → r.w[j] = 0 := by
      rw [zeroTail_iff, Fin.forall_iff]
      exact forall₂_congr fun j hj => by rw [byteAt_eq_getElem _ hj]; rfl
    have hnonzero : ∀ nk nr : BitVec 4, (nk, nr) ∈ [(4#4, 10#4), (6#4, 12#4), (8#4, 14#4)] → nk ≠ 0 ∧ nr ≠ 0 := by
      decide
    simp only [Regs.keyWf, hkv, if_true, Bool.and_eq_true, legalRounds_iff, htail, Bool.true_eq_false, false_iff,
      forall_const]
    constructor
    · rintro ⟨hlegal, hzero⟩
      obtain ⟨hnk, hnr⟩ := hnonzero _ _ hlegal
      exact ⟨hnk, hnr, hlegal, hzero⟩
    · rintro ⟨-, -, hlegal, hzero⟩
      exact ⟨hlegal, hzero⟩

/-- Settles O48: the four parts of `Regs.wf`, each as the spec writes it. -/
theorem wellFormedRegsAreTheSpecsInvariant : Obligations.WellFormedRegsAreTheSpecsInvariant := by
  unfold Obligations.WellFormedRegsAreTheSpecsInvariant
  intro r
  have hpending : r.busy = r.pending.isSome ↔ (r.busy = true ↔ r.pending ≠ none) := by
    rw [← Option.isSome_iff_ne_none, Bool.eq_iff_iff]
  have hcodes : ∀ e : BitVec 4, e.toNat ≤ 4 ↔ e ∈ [0#4, 1#4, 2#4, 3#4, 4#4] := by decide
  rw [Regs.wf_iff, Regs.keyWf_iff, hpending, hcodes]
  simp only [and_assoc]

end Sys2Proof.Machine

/-! # Commands at their two moments (spec/60_exceptions.md R118 to R123, spec/43_cipher_pipelines.md R113, R117) -/

namespace Sys2Proof.Machine

/-! ### Issuing -/

theorem issue_accepted {i : Instr} {check : Regs → Option CmdError} {s : State} (hidle : s.core.busy = false)
    (hcheck : check s.core = none) : issue i check s = s.withCore (markAccepted i s.core) := by
  simp [issue, hidle, hcheck]

theorem issue_refused {i : Instr} {check : Regs → Option CmdError} {s : State} {e : CmdError}
    (hidle : s.core.busy = false) (hcheck : check s.core = some e) :
    issue i check s = s.withCore (markError e s.core) := by
  simp [issue, hidle, hcheck, raiseCmdError]

/-- A command that passes its check is accepted at the host's turn (60_exceptions.md R119). -/
theorem exec_accepted (i : Instr) {s : State} (hturn : s.turn = .host) (hidle : s.core.busy = false)
    (hcheck : checkOf i s.core = none) : exec i s = .next (s.withCore (markAccepted i s.core)) := by
  rw [exec_host i hturn, issue_accepted hidle hcheck]

/-- A command that fails its check records the error at the host's turn (60_exceptions.md R120). -/
theorem exec_refused (i : Instr) {s : State} (e : CmdError) (hturn : s.turn = .host) (hidle : s.core.busy = false)
    (hcheck : checkOf i s.core = some e) : exec i s = .next (s.withCore (markError e s.core)) := by
  rw [exec_host i hturn, issue_refused hidle hcheck]

/-! ### The acceptance checks -/

/-- The selector refuses every length but its three (41_key_schedule.md R85). -/
theorem selectRounds_eq_none_iff (len : BitVec 8) : selectRounds len = none ↔ len ∉ [16#8, 24#8, 32#8] := by
  unfold selectRounds
  split_ifs <;> simp_all

theorem checkKeyLength_eq_none {r : Regs} (h : r.keyLen ∈ [16#8, 24#8, 32#8]) : checkKeyLength r = none := by
  have hsome : selectRounds r.keyLen ≠ none := fun hnone => (selectRounds_eq_none_iff _).1 hnone h
  simpa [checkKeyLength] using hsome

theorem checkKeyLength_eq_some {r : Regs} (h : r.keyLen ∉ [16#8, 24#8, 32#8]) :
    checkKeyLength r = some .invalidKeyLength := by
  simp [checkKeyLength, (selectRounds_eq_none_iff _).2 h]

theorem checkRound_eq_noKey {r : Regs} (n : Nat) (h : r.kv = false) : checkRound n r = some .noKey := by
  simp [checkRound, checkKeyHeld, h]

/-- With a key held ADDROUNDKEY's check is that of the round (60_exceptions.md R119). -/
theorem checkRound_of_kv {r : Regs} (n : Nat) (h : r.kv = true) :
    checkRound n r = if r.nr.toNat < n then some .roundRange else none := by
  simp [checkRound, checkKeyHeld, h]

/-- ADDROUNDKEY passes with a key held and a round of that key (60_exceptions.md R119). -/
theorem checkRound_eq_none_iff (n : Nat) (r : Regs) :
    checkRound n r = none ↔ r.kv = true ∧ n ≤ r.nr.toNat := by
  cases hkv : r.kv with
  | false => simp [checkRound_eq_noKey n hkv]
  | true => simp [checkRound_of_kv n hkv]

/-- The pipelines pass with a key held (60_exceptions.md R119). -/
theorem checkKeyHeld_eq_none_iff (r : Regs) : checkKeyHeld r = none ↔ r.kv = true := by
  simp [checkKeyHeld]

/-- Settles O29: under the hypotheses each command's check passes. -/
theorem acceptedCommandOccupiesTheCore : Obligations.AcceptedCommandOccupiesTheCore := by
  unfold Obligations.AcceptedCommandOccupiesTheCore
  intro i s hturn hidle hlen hkv hround
  have hcheck : checkOf i s.core = none := by
    cases i with
    | keyExp => exact checkKeyLength_eq_none (hlen rfl)
    | encrypt => exact (checkKeyHeld_eq_none_iff _).2 (hkv (.inl rfl))
    | decrypt => exact (checkKeyHeld_eq_none_iff _).2 (hkv (.inr (.inl rfl)))
    | addRoundKey n => exact (checkRound_eq_none_iff n _).2 ⟨hkv (.inr (.inr ⟨n, rfl⟩)), hround n rfl⟩
    | subBytes | invSubBytes | shiftRows | invShiftRows | mixColumns | invMixColumns => rfl
  exact exec_accepted i hturn hidle hcheck

/-- Settles O30: under each clause's hypothesis the command's check answers that clause's error. -/
theorem refusedCommandRecordsOneError : Obligations.RefusedCommandRecordsOneError := by
  unfold Obligations.RefusedCommandRecordsOneError
  intro s hturn hidle
  refine ⟨?keyLength, ?noKey, ?roundRange⟩
  case keyLength =>
    intro hlen
    exact exec_refused .keyExp .invalidKeyLength hturn hidle (checkKeyLength_eq_some hlen)
  case noKey =>
    intro hkv
    have hheld : checkKeyHeld s.core = some .noKey := by simp [checkKeyHeld, hkv]
    exact ⟨exec_refused .encrypt .noKey hturn hidle hheld, exec_refused .decrypt .noKey hturn hidle hheld,
      fun n => exec_refused (.addRoundKey n) .noKey hturn hidle (checkRound_eq_noKey n hkv)⟩
  case roundRange =>
    intro hkv n hn
    have hcheck : checkRound n s.core = some .roundRange := by rw [checkRound_of_kv n hkv, if_pos hn]
    exact exec_refused (.addRoundKey n) .roundRange hturn hidle hcheck

/-! ### Completing -/

/-- A pipeline's effect without a key or outside the invariant (43_cipher_pipelines.md R113). -/
theorem pipelineEffect_error (f : Block → ExpandedKey → Nat → Block) {r : Regs} (h : ¬(r.kv = true ∧ r.wf = true)) :
    pipelineEffect f r = .error .outsideInvariant := by
  rw [pipelineEffect, if_neg (by rwa [Bool.and_eq_true])]

/-- Settles O21: the pipelines share one guard. -/
theorem pipelinesFaultOutsideTheInvariant : Obligations.PipelinesFaultOutsideTheInvariant := by
  unfold Obligations.PipelinesFaultOutsideTheInvariant
  intro s hturn hout
  constructor
  · rw [exec_core .encrypt hturn]
    exact complete_error (pipelineEffect_error cipher hout)
  · rw [exec_core .decrypt hturn]
    exact complete_error (pipelineEffect_error invCipher hout)

/-- Under the invariant a command that passed its check has its operands (60_exceptions.md R122). -/
theorem effectOf_ok {i : Instr} {r : Regs} (hwf : r.wf = true) (hcheck : checkOf i r = none) :
    ∃ r', effectOf i r = .ok r' := by
  cases i with
  | keyExp =>
    have hsome : selectRounds r.keyLen ≠ none := by simpa [checkOf, checkKeyLength] using hcheck
    obtain ⟨⟨nk, nr⟩, hsel⟩ := Option.ne_none_iff_exists'.1 hsome
    exact ⟨_, keyExpEffect_ok hsel⟩
  | encrypt => exact ⟨_, pipelineEffect_ok cipher ((checkKeyHeld_eq_none_iff r).1 hcheck) hwf⟩
  | decrypt => exact ⟨_, pipelineEffect_ok invCipher ((checkKeyHeld_eq_none_iff r).1 hcheck) hwf⟩
  | addRoundKey n =>
    obtain ⟨hkv, hn⟩ := (checkRound_eq_none_iff n r).1 hcheck
    obtain ⟨-, hnr⟩ := nr_bounds_of_wf hwf hkv
    exact ⟨_, if_pos ⟨hn, hn.trans hnr⟩⟩
  | subBytes | invSubBytes | shiftRows | invShiftRows | mixColumns | invMixColumns => exact ⟨_, rfl⟩

/-! ### The core's step -/

/-- A scheduled completion is taken from the schedule, and on an empty one the core moves too (20_memory.md R63). -/
theorem step_eq_coreStep {s : State} (h : s.inputs = [] ∨ s.inputs.head? = some .complete) :
    step s = coreStep (s.withInputs s.inputs.tail) := by
  rcases step_cases s with ⟨e, es, he, hs⟩ | ⟨he, hs⟩
  · obtain rfl : e = .complete := by simpa [he] using h
    rw [hs, he]
    rfl
  · rw [hs, he, List.tail_nil, ← he]
    rfl

/-- When the core moves, its step completes the command in flight (43_cipher_pipelines.md R117). -/
theorem step_of_coreMoves {s : State} {i : Instr} (h : CoreMoves s) (hpending : s.core.pending = some i) :
    step s = exec i ((s.withInputs s.inputs.tail).withTurn .core) := by
  obtain ⟨hbusy, hrst, hinputs⟩ := h
  rw [step_eq_coreStep hinputs]
  simp [coreStep, completionEnabled, hbusy, hrst, hpending]

/-- Settles O35: the completion event, where there is one, is taken first. -/
theorem stepCompletesThePendingCommand : Obligations.StepCompletesThePendingCommand := by
  unfold Obligations.StepCompletesThePendingCommand
  exact fun _ _ h hpending => step_of_coreMoves h hpending

/-- Settles O18: in each clause the completion's guard fails. -/
theorem completionsWithoutOperandsFault : Obligations.CompletionsWithoutOperandsFault := by
  unfold Obligations.CompletionsWithoutOperandsFault
  refine ⟨?addRoundKey, ?keyExp, ?nothingPending⟩
  case addRoundKey =>
    intro s n hturn hround
    have heffect : addRoundKeyEffect n s.core = .error .noSuchRoundKey := if_neg hround
    rw [exec_core _ hturn]
    exact complete_error heffect
  case keyExp =>
    intro s hturn hlen
    have heffect : keyExpEffect s.core = .error .keyLengthUnselectable := by
      simp [keyExpEffect, (selectRounds_eq_none_iff _).2 hlen]
    rw [exec_core _ hturn]
    exact complete_error heffect
  case nothingPending =>
    intro s h hpending
    obtain ⟨hbusy, hrst, hinputs⟩ := h
    rw [step_eq_coreStep hinputs]
    simp [coreStep, completionEnabled, hbusy, hrst, hpending]

/-- Where the completion is not enabled the core's step changes nothing (43_cipher_pipelines.md R117). -/
theorem coreStep_of_disabled {s : State} (h : s.core.busy = false ∨ s.rst = true) : coreStep s = .next s := by
  have hoff : completionEnabled s = false := by
    rcases h with h | h <;> simp [completionEnabled, h]
  simp [coreStep, hoff]

/-- Settles O36: the event, where there is one, is taken, and the completion is not enabled. -/
theorem idleCoreKeepsItsState : Obligations.IdleCoreKeepsItsState := by
  unfold Obligations.IdleCoreKeepsItsState
  intro s hoff hinputs
  rw [step_eq_coreStep hinputs]
  exact coreStep_of_disabled hoff

/-! ### The invariant and the step -/

/-- A command in flight under the invariant has an effect (60_exceptions.md R122). -/
theorem exists_effect_of_invariant {s : State} (hinv : Invariant s) (hbusy : s.core.busy = true) :
    ∃ i r, s.core.pending = some i ∧ effectOf i s.core = .ok r := by
  obtain ⟨hwf, hacc⟩ := hinv
  obtain ⟨i, hpending⟩ := exists_pending_of_wf hwf hbusy
  obtain ⟨r, heffect⟩ := effectOf_ok hwf ((pendingAccepted_iff _).1 hacc i hpending)
  exact ⟨i, r, hpending, heffect⟩

/-- Settles O52: the command in flight has an effect, which leaves ERR at the 0 it has while busy. -/
theorem commandInFlightCompletes : Obligations.CommandInFlightCompletes := by
  unfold Obligations.CommandInFlightCompletes
  intro s hinv h
  have hbusy : s.core.busy = true := h.1
  obtain ⟨i, r, hpending, heffect⟩ := exists_effect_of_invariant hinv hbusy
  obtain ⟨-, hflags, -⟩ := s.core.wf_iff.1 hinv.1
  obtain ⟨-, herr⟩ := hflags hbusy
  obtain ⟨-, -, -, -, hkept, -⟩ := effectOf_frame heffect
  refine ⟨((s.withInputs s.inputs.tail).withTurn .core).withCore (markCompleted r), ?_, rfl, rfl, hkept.trans herr, rfl⟩
  rw [step_of_coreMoves h hpending, exec_core i rfl]
  exact complete_ok heffect

/-- The core's step goes on under the invariant (60_exceptions.md R122). -/
theorem coreStep_next {s : State} (hinv : Invariant s) : ∃ t, coreStep s = .next t := by
  rcases coreStep_cases s with ⟨hbusy, -, i, hpending, h⟩ | ⟨hbusy, -, hpending, -⟩ | ⟨-, h⟩
  · obtain ⟨j, r, hj, heffect⟩ := exists_effect_of_invariant hinv hbusy
    obtain rfl : i = j := by simpa [hpending] using hj
    exact ⟨_, h.trans (complete_ok heffect)⟩
  · obtain ⟨i, -, hi, -⟩ := exists_effect_of_invariant hinv hbusy
    simp [hpending] at hi
  · exact ⟨s, h⟩

/-- A host transaction always answers (20_memory.md R56 to R58). -/
theorem hostStep_next (q : Request) {s : State} (hturn : s.turn = .host) : ∃ t, hostStep q s = .next t := by
  cases hacc : acceptedReg s q with
  | none => exact ⟨_, hostStep_of_refused hacc⟩
  | some g =>
    obtain ⟨t, -, h, -⟩ := hostStep_of_accepted hacc hturn
    exact ⟨t, h⟩

/-- Settles O51: the host always goes on, and so does the core under the invariant. -/
theorem noStepStopsUnderTheInvariant : Obligations.NoStepStopsUnderTheInvariant := by
  unfold Obligations.NoStepStopsUnderTheInvariant
  intro s hinv
  rcases step_cases s with ⟨e, es, -, hs⟩ | ⟨-, hs⟩
  · rw [hs]
    cases e with
    | host q => exact hostStep_next q rfl
    | complete => exact coreStep_next (s := s.withInputs es) hinv
    | assertRst => exact ⟨_, rfl⟩
    | releaseRst => exact ⟨_, rfl⟩
  · rw [hs]
    exact coreStep_next hinv

/-! ### What a command leaves unchanged -/

/-- Settles O53: at the host's turn a command is issued, which writes flags and PENDING only, and at the core's turn its
effect has the frame `effectOf_frame`. -/
theorem commandFrame : Obligations.CommandFrame := by
  unfold Obligations.CommandFrame
  intro i s t h
  cases hturn : s.turn with
  | host =>
    rw [exec_host i hturn] at h
    injection h with h
    subst h
    rcases issue_cases i (checkOf i) s with ⟨hbusy, h⟩ | ⟨-, e, -, h⟩ | ⟨-, -, h⟩ <;> rw [h]
    · simp [hbusy, hturn]
    · simp [hturn]
    · simp [hturn]
  | core =>
    rw [exec_core i hturn] at h
    obtain ⟨r, heffect, rfl⟩ := complete_next h
    obtain ⟨hie, -, -, hovr, -, hlen, hkey, -, hheld, hblock⟩ := effectOf_frame heffect
    simpa [hie, hovr, hlen, hkey, hturn] using ⟨hheld, hblock⟩

end Sys2Proof.Machine

/-! # What a step of the machine leaves unchanged (spec/10_state.md R36, R37, spec/20_memory.md R66, spec/60_exceptions.md R121) -/

namespace Sys2Proof.Machine

/-! ### The held key -/

theorem CoreChange.heldKey_unchanged {s : State} {r : Regs} (h : CoreChange s r)
    (hrst : s.inputs.head? ≠ some .assertRst) (hexp : ¬(CoreMoves s ∧ s.core.pending = some .keyExp)) :
    r.w = s.core.w ∧ r.nk = s.core.nk ∧ r.nr = s.core.nr ∧ r.kv = s.core.kv := by
  cases h with
  | reset h => exact absurd h hrst
  | completed i r hmoves hpending heffect =>
    have hi : i ≠ .keyExp := fun hi => hexp ⟨hmoves, hi ▸ hpending⟩
    obtain ⟨-, -, -, -, -, -, -, -, hheld, -⟩ := effectOf_frame heffect
    exact hheld hi
  | none | ctrl | status | dropped | keyLen | block | key | refused | accepted => exact ⟨rfl, rfl, rfl, rfl⟩

/-- Settles O54: no other change of the registers writes W, NK, NR or KV. -/
theorem heldKeyChangesOnlyByKeyExpOrReset : Obligations.HeldKeyChangesOnlyByKeyExpOrReset := by
  unfold Obligations.HeldKeyChangesOnlyByKeyExpOrReset
  exact fun _ _ h hrst hexp => (step_coreChange h).heldKey_unchanged hrst hexp

/-- A KEYEXP that completes leaves a key held (41_key_schedule.md R92). -/
theorem kv_of_keyExp_completes {s t : State} (h : step s = .next t) (hmoves : CoreMoves s)
    (hpending : s.core.pending = some .keyExp) : t.core.kv = true := by
  rw [step_of_coreMoves hmoves hpending, exec_core .keyExp rfl] at h
  obtain ⟨r, heffect, rfl⟩ := complete_next h
  obtain ⟨hkv, -⟩ := keyWf_of_keyExpEffect heffect
  exact hkv

/-- Settles O55: of the two steps that write KV, KEYEXP's completion sets it. -/
theorem keyValidIsClearedOnlyByReset : Obligations.KeyValidIsClearedOnlyByReset := by
  unfold Obligations.KeyValidIsClearedOnlyByReset
  intro s t h hheld hcleared
  by_contra hrst
  by_cases hexp : CoreMoves s ∧ s.core.pending = some .keyExp
  · obtain ⟨hmoves, hpending⟩ := hexp
    simp [kv_of_keyExp_completes h hmoves hpending] at hcleared
  · obtain ⟨-, -, -, hkv⟩ := heldKeyChangesOnlyByKeyExpOrReset s t h hrst hexp
    simp [hkv, hheld] at hcleared

/-! ### The overrun flag -/

theorem CoreChange.ovr_cleared {s : State} {r : Regs} (h : CoreChange s r) (hset : s.core.ovr = true)
    (hcleared : r.ovr = false) :
    s.inputs.head? = some .assertRst ∨ ∃ v, Presents s (wr 0x004 v) ∧ v.getLsbD 3 = true := by
  cases h with
  | reset hrst => exact .inl hrst
  | status v hv =>
    have hbit : v.getLsbD 3 = true := by simpa [hset] using hcleared
    exact .inr ⟨v, hv, hbit⟩
  | completed i r _ _ heffect =>
    obtain ⟨-, -, -, hkept, -⟩ := effectOf_frame heffect
    simp [hkept, hset] at hcleared
  | none | ctrl | dropped | keyLen | block | key | refused | accepted => simp [hset] at hcleared

theorem CoreChange.ovr_set {s : State} {r : Regs} (h : CoreChange s r) (hclear : s.core.ovr = false)
    (hset : r.ovr = true) :
    s.core.busy = true ∧ ∃ m v, 2 ≤ m ∧ m ≤ 15 ∧ Presents s (wr (BitVec.ofNat 9 (4 * m)) v) := by
  cases h with
  | dropped m v hlow hhigh hv hbusy => exact ⟨hbusy, m, v, hlow, hhigh, hv⟩
  | completed i r _ _ heffect =>
    obtain ⟨-, -, -, hkept, -⟩ := effectOf_frame heffect
    simp [hkept, hclear] at hset
  | reset => simp [Regs.reset] at hset
  | none | ctrl | status | keyLen | block | key | refused | accepted => simp [hclear] at hset

/-- Settles O56: a STATUS write and reset can clear OVR, and a dropped write alone sets it. -/
theorem overrunIsSticky : Obligations.OverrunIsSticky := by
  unfold Obligations.OverrunIsSticky
  exact fun _ _ h => ⟨(step_coreChange h).ovr_cleared, (step_coreChange h).ovr_set⟩

/-! ### The operands of the command in flight -/

theorem CoreChange.operands_unchanged {s : State} {r : Regs} (h : CoreChange s r) (hbusy : s.core.busy = true)
    (hmoves : ¬CoreMoves s) (hrst : s.inputs.head? ≠ some .assertRst) :
    r.block = s.core.block ∧ r.key = s.core.key ∧ r.keyLen = s.core.keyLen ∧ r.w = s.core.w ∧ r.nr = s.core.nr
      ∧ r.pending = s.core.pending ∧ r.busy = true := by
  cases h with
  | none | ctrl | status | dropped => exact ⟨rfl, rfl, rfl, rfl, rfl, rfl, hbusy⟩
  | keyLen v hidle | block m v hidle | key m v hidle | refused e hidle | accepted i hidle => simp [hidle] at hbusy
  | completed i r h => exact absurd h hmoves
  | reset h => exact absurd h hrst

/-- Settles O57: the changes that write an operand are an idle core's, a completion's or reset's. -/
theorem operandsStayWhileBusy : Obligations.OperandsStayWhileBusy := by
  unfold Obligations.OperandsStayWhileBusy
  exact fun _ _ h hbusy hmoves hrst => (step_coreChange h).operands_unchanged hbusy hmoves hrst

/-! ### The host program's fault bit -/

theorem hostStep_keeps_hostFault {q : Request} {s t : State} (hturn : s.turn = .host) (h : hostStep q s = .next t)
    (hfault : s.hostFault = true) : t.hostFault = true := by
  cases hacc : acceptedReg s q with
  | none =>
    obtain rfl : s.refuse q = t := by simpa [hostStep_of_refused hacc] using h
    rfl
  | some g =>
    obtain ⟨t', -, ht', -, -, hkept⟩ := hostStep_of_accepted hacc hturn
    obtain rfl : t' = t := by simpa [ht'] using h
    exact hkept.trans hfault

theorem coreStep_hostFault {s t : State} (h : coreStep s = .next t) : t.hostFault = s.hostFault := by
  rcases coreStep_cases s with ⟨-, -, i, -, hs⟩ | ⟨-, -, -, hs⟩ | ⟨-, hs⟩ <;> rw [hs] at h
  · obtain ⟨r, -, rfl⟩ := complete_next h
    rfl
  · cases h
  · cases h
    rfl

/-- Settles O58: a transaction sets the bit or leaves it, and no other step writes it. -/
theorem hostFaultIsNeverCleared : Obligations.HostFaultIsNeverCleared := by
  unfold Obligations.HostFaultIsNeverCleared
  intro s t h hfault
  rcases step_cases s with ⟨e, es, -, hs⟩ | ⟨-, hs⟩ <;> rw [hs] at h
  · cases e with
    | host q => exact hostStep_keeps_hostFault rfl h hfault
    | complete => exact (coreStep_hostFault h).trans hfault
    | assertRst | releaseRst =>
      cases h
      exact hfault
  · exact (coreStep_hostFault h).trans hfault

end Sys2Proof.Machine

/-! # The register interface (spec/20_memory.md R52, R57 to R60, spec/10_state.md R33) -/

namespace Sys2Proof.Machine

/-! ### Where a register's words stand -/

theorem toNat_offset {n : Nat} (h : n < 512) : (BitVec.ofNat 9 n).toNat = n := by
  rw [BitVec.toNat_ofNat, Nat.mod_eq_of_lt h]

theorem offset_aligned {n : Nat} (h : n < 512) (h4 : n % 4 = 0) : (BitVec.ofNat 9 n).toNat % 4 = 0 := by
  rw [toNat_offset h, h4]

theorem regAt_state : ∀ {m : Nat}, m < 4 → regAt (BitVec.ofNat 9 (0x010 + 4 * m)) = some (.state m) := by decide

theorem regAt_key : ∀ {m : Nat}, m < 8 → regAt (BitVec.ofNat 9 (0x020 + 4 * m)) = some (.key m) := by decide

theorem regAt_rkey : ∀ {i : Nat}, i < 60 → regAt (BitVec.ofNat 9 (0x100 + 4 * i)) = some (.rkey i) := by decide

/-! ### Writes of an idle core -/

theorem writeUnlessBusy_of_idle (f : Regs → Regs) {r : Regs} (hidle : r.busy = false) : writeUnlessBusy f r = f r := by
  simp [writeUnlessBusy, hidle]

/-- A byte after a word of its register is written (20_memory.md R58). -/
theorem getElem?_setWordAt {n : Nat} (v : Vector Byte n) (m : Nat) (x : Word) {j : Nat} (hj : j < n) :
    (setWordAt v m x)[j]? = if j / 4 = m then some (x.extractLsb' (8 * (j % 4)) 8) else v[j]? := by
  rw [getElem?_eq_some_byteAt _ hj, getElem?_eq_some_byteAt _ hj, byteAt_setWordAt, if_pos hj, apply_ite some]
  rfl

/-- Settles O40: an idle core stores the written word in its register. -/
theorem idleWritesReachTheirBytes : Obligations.IdleWritesReachTheirBytes := by
  unfold Obligations.IdleWritesReachTheirBytes
  intro s v hidle
  refine ⟨?keyLen, ?state, ?key⟩
  case keyLen =>
    intro h
    rw [step_write h rfl rfl rfl (by decide), writeReg, writeUnlessBusy_of_idle _ hidle, setKeyLen,
      BitVec.setWidth_eq_extractLsb' (by decide)]
  case state =>
    intro m hm h
    refine ⟨setWordAt s.core.block m v, fun j hj => getElem?_setWordAt _ m v hj, ?_⟩
    rw [step_write h (offset_aligned (by omega) (by omega)) (regAt_state hm) rfl (by simp), writeReg,
      writeUnlessBusy_of_idle _ hidle, setBlockWord]
  case key =>
    intro m hm h
    refine ⟨setWordAt s.core.key m v, fun j hj => getElem?_setWordAt _ m v hj, ?_⟩
    rw [step_write h (offset_aligned (by omega) (by omega)) (regAt_key hm) rfl (by simp), writeReg,
      writeUnlessBusy_of_idle _ hidle, setKeyWord]

/-! ### Reads -/

/-- Lane k of the `LE32` of four bytes is the k-th (20_memory.md R52). -/
theorem lane_le32_of_lt (f : Nat → Byte) {k : Nat} (hk : k < 4) : lane (le32 (f 0) (f 1) (f 2) (f 3)) k = f k := by
  obtain ⟨h0, h1, h2, h3⟩ := lane_le32 (f 0) (f 1) (f 2) (f 3)
  interval_cases k
  exacts [h0, h1, h2, h3]

/-- A lane of a word that is read is its byte (20_memory.md R52, R57). -/
theorem getElem?_eq_lane_wordAt {n : Nat} (v : Vector Byte n) (m : Nat) {k : Nat} (hk : k < 4) (h : 4 * m + k < n) :
    v[4 * m + k]? = some ((wordAt v m).extractLsb' (8 * k) 8) := by
  rw [getElem?_eq_some_byteAt _ h]
  exact congrArg some (lane_le32_of_lt (fun k => byteAt v (4 * m + k)) hk).symm

/-- Settles O41: the read is answered with `regValue`, whose lanes are the register's bytes. -/
theorem readsReturnTheirBytes : Obligations.ReadsReturnTheirBytes := by
  unfold Obligations.ReadsReturnTheirBytes
  intro s d
  refine ⟨?cmd, ?keyLen, ?state, ?key, ?rkey⟩
  case cmd => exact fun h => step_read h rfl rfl rfl
  case keyLen =>
    refine fun h => ⟨s.core.keyLen.setWidth 32, ?_, step_read h rfl rfl rfl⟩
    exact BitVec.toNat_setWidth_of_le (by decide)
  case state =>
    intro m hm hidle h
    exact ⟨wordAt s.core.block m, fun k hk => getElem?_eq_lane_wordAt _ m hk (by omega),
      step_read h (offset_aligned (by omega) (by omega)) (regAt_state hm) hidle⟩
  case key =>
    intro m hm h
    exact ⟨wordAt s.core.key m, fun k hk => getElem?_eq_lane_wordAt _ m hk (by omega),
      step_read h (offset_aligned (by omega) (by omega)) (regAt_key hm) rfl⟩
  case rkey =>
    intro i hi hexp h
    have hfixed : readsFree s.core (.rkey i) = false := by simpa [readsFree] using hexp
    exact ⟨wordAt s.core.w i, fun k hk => getElem?_eq_lane_wordAt _ i hk (by omega),
      step_read h (offset_aligned (by omega) (by omega)) (regAt_rkey hi) hfixed⟩

/-- A presented read that is a free draw (20_memory.md R60). -/
theorem step_read_free {s : State} {off : BitVec 9} {d : Word} {g : Reg} (h : Presents s (rd off d))
    (ha : off.toNat % 4 = 0) (hg : regAt off = some g) (hf : readsFree s.core g = true) :
    step s = .next (s.answered (rd off d) (some (Config.any32 s.draws)) s.core).drawn := by
  have hacc : acceptedReg ((s.withInputs s.inputs.tail).withTurn .host) (rd off d) = some g :=
    acceptedReg_eq_some h.2 rfl ha hg (by simp [rd])
  rw [step_of_presents h, hostStep, hacc, answered_core_eq_answer]
  simp [rd, readReg, hf]

/-- Settles O42: both reads are free draws. -/
theorem busyReadsAreFreeDraws : Obligations.BusyReadsAreFreeDraws := by
  unfold Obligations.BusyReadsAreFreeDraws
  intro s d hbusy
  constructor
  · intro m hm h
    exact step_read_free h (offset_aligned (by omega) (by omega)) (regAt_state hm) hbusy
  · intro i hi hexp h
    exact step_read_free h (offset_aligned (by omega) (by omega)) (regAt_rkey hi) (by simp [readsFree, hbusy, hexp])

@[simp] theorem readReg_rst (q : Request) (g : Reg) (s : State) : (readReg q g s).rst = s.rst := by
  unfold readReg
  split <;> rfl

@[simp] theorem readReg_inputs (q : Request) (g : Reg) (s : State) : (readReg q g s).inputs = s.inputs := by
  unfold readReg
  split <;> rfl

/-- Settles O44: a read is refused or answered by `readReg`. -/
theorem readsHaveNoSideEffect : Obligations.ReadsHaveNoSideEffect := by
  unfold Obligations.ReadsHaveNoSideEffect
  intro s q hq hread
  rw [step_of_host hq]
  cases hacc : acceptedReg ((s.withInputs s.inputs.tail).withTurn .host) q with
  | none => exact ⟨_, hostStep_of_refused hacc, rfl, rfl, rfl⟩
  | some g =>
    refine ⟨readReg q g ((s.withInputs s.inputs.tail).withTurn .host), ?_, ?_, ?_, ?_⟩
    · simp [hostStep, hacc, hread]
    · rw [readReg_core]
      rfl
    · rw [readReg_rst]
      rfl
    · rw [readReg_inputs]
      rfl

/-! ### STATUS -/

/-- The layout of STATUS, bit by bit (10_state.md R33). -/
def statusBit (r : Regs) (k : Nat) : Bool :=
  if k < 4 then [r.busy, r.done, r.kv, r.ovr].getD k false
  else if k < 8 then false
  else if k < 12 then r.err.getLsbD (k - 8)
  else if k < 16 then false
  else if k < 20 then r.nr.getLsbD (k - 16)
  else if k < 24 then r.nk.getLsbD (k - 20)
  else false

theorem getLsbD_statusWord (r : Regs) {k : Nat} (hk : k < 32) : (statusWord r).getLsbD k = statusBit r k := by
  simp only [statusWord, BitVec.getLsbD_or, BitVec.getLsbD_shiftLeft, BitVec.getLsbD_setWidth, getLsbD_flagWord]
  interval_cases k <;> simp [statusBit]

/-- A field of STATUS is what the layout says of its bits (10_state.md R33). -/
theorem extractLsb'_statusWord (r : Regs) {start n : Nat} (x : BitVec n) (hin : start + n ≤ 32)
    (h : ∀ i, i < n → statusBit r (start + i) = x.getLsbD i) : (statusWord r).extractLsb' start n = x := by
  apply BitVec.eq_of_getLsbD_eq
  intro i hi
  rw [BitVec.getLsbD_extractLsb', decide_eq_true hi, Bool.true_and, getLsbD_statusWord r (by omega), h i hi]

/-- Settles O39: the value is `statusWord`, read by its layout. -/
theorem statusReadHasItsLayout : Obligations.StatusReadHasItsLayout := by
  unfold Obligations.StatusReadHasItsLayout
  intro s d h
  refine ⟨statusWord s.core, step_read h rfl rfl rfl, getLsbD_statusWord _ (by decide), getLsbD_statusWord _ (by decide),
    getLsbD_statusWord _ (by decide), getLsbD_statusWord _ (by decide), ?err, ?nr, ?nk, ?zeros4, ?zeros12, ?zeros24⟩
  all_goals
    refine extractLsb'_statusWord _ _ (by decide) fun i hi => ?_
    interval_cases i <;> rfl

end Sys2Proof.Machine

/-! # The decoder against the encoder, and the source's key-schedule vector (spec/30_encoding.md R67 to R70, spec/41_key_schedule.md R93) -/

namespace Sys2Proof.Machine

/-- Settles O2: the two directions of `decode_eq_ok_iff`. -/
theorem decodeAndEncodeAgree : Obligations.DecodeAndEncodeAgree := by
  unfold Obligations.DecodeAndEncodeAgree
  constructor
  · exact fun _ hwf => decode_encode hwf
  · intro v i h
    obtain ⟨hwf, rfl⟩ := decode_eq_ok_iff.1 h
    exact ⟨hwf, rfl⟩

/-- Settles O1: ten of the words are CMD words, and the four reserved values fail the decoder's checks. -/
theorem decoderReadsTheCommandWords : Obligations.DecoderReadsTheCommandWords := by
  unfold Obligations.DecoderReadsTheCommandWords
  decide

/-- Settles O10: word 4 is word 0 xored with `temp` of word 3, a RotWord, a SubWord and the first round constant. -/
theorem firstDerivedWordOfTheSourceVector : Obligations.FirstDerivedWordOfTheSourceVector := by
  unfold Obligations.FirstDerivedWordOfTheSourceVector
  intro key hkey
  have hword0 : keyWord key 0 = #v[0x2b, 0x7e, 0x15, 0x16] := hkey 0 (by decide)
  have hword3 : keyWord key 3 = #v[0x09, 0xcf, 0x4f, 0x3c] := hkey 3 (by decide)
  rw [wordOf_keyExpansionWords_derived key (by decide) le_rfl (by decide), Nat.sub_self,
    wordOf_keyExpansionWords_key 4 10 key (by decide), wordOf_keyExpansionWords_key 4 10 key (by decide), hword0, hword3]
  decide

end Sys2Proof.Machine

/-! # CMD writes and the WAIT loop as steps of the machine (spec/30_encoding.md R67, R71, R75, spec/60_exceptions.md R119) -/

namespace Sys2Proof.Machine

/-- Settles O31: no command is decoded and the core is idle, so the write reports ILLEGAL_COMMAND. -/
theorem illegalCommandRecordsError : Obligations.IllegalCommandRecordsError := by
  unfold Obligations.IllegalCommandRecordsError
  intro s v h hidle hv
  have hcore : (s.answered (wr 0x008 v) none s.core).core.busy = false := hidle
  rw [step_write_cmd h rfl rfl, writeCmd, decode_eq_illegal hv, issueIllegal, hcore]
  rfl

/-- A presented CMD write of a command runs it at the host's turn (60_exceptions.md R119). -/
theorem step_of_command {s : State} {v : Word} {i : Instr} (h : Presents s (wr 0x008 v)) (hv : decode v = .ok i) :
    step s = exec i (s.answered (wr 0x008 v) none s.core) := by
  rw [step_write_cmd h rfl rfl, writeCmd, hv]

/-- Settles O33: CMD stands at 0x008. -/
theorem stepIssuesTheDecodedCommand : Obligations.StepIssuesTheDecodedCommand := by
  unfold Obligations.StepIssuesTheDecodedCommand
  exact fun _ _ _ h hv => step_of_command h hv

/-- Settles O34: the placed fetch word is a presented CMD write, and its four lanes make up the word again. -/
theorem fetchWordIsTheNextCommand : Obligations.FetchWordIsTheNextCommand := by
  unfold Obligations.FetchWordIsTheNextCommand
  constructor
  · intro s v i hv
    have hword : BitVec.ofNat 32 (v.toNat % 2 ^ 32) = v := by
      rw [Nat.mod_eq_of_lt v.isLt, BitVec.ofNat_toNat, BitVec.setWidth_eq]
    have hpresents : Presents (s.withFetchWord 32 v.toNat) (wr 0x008 v) := by
      rw [State.withFetchWord, hword]
      exact ⟨rfl, rfl⟩
    exact step_of_command hpresents hv
  · intro v
    have hsmall : ¬2 ^ 32 ≤ v.toNat := Nat.not_le.2 v.isLt
    simp only [decodeTableWord, Nat.mod_eq_of_lt v.isLt, if_neg hsmall, BitVec.ofNat_toNat, BitVec.setWidth_eq,
      decodeBytes, le32_lanes]

/-- BUSY stands in bit 0 of STATUS (10_state.md R33). -/
theorem getLsbD_statusWord_zero (r : Regs) : (statusWord r).getLsbD 0 = r.busy := getLsbD_statusWord r (by decide)

/-- Settles O60: WAIT reads STATUS, and bit 0 of what it reads is BUSY. -/
theorem waitLoopsExactlyWhileBusy : Obligations.WaitLoopsExactlyWhileBusy := by
  unfold Obligations.WaitLoopsExactlyWhileBusy
  intro s ls h
  have hread : (s.answered (rd 0x004 0) (some (statusWord s.core)) s.core).readValue = statusWord s.core := rfl
  refine ⟨_, step_read h rfl rfl rfl, rfl, rfl, ?_⟩
  rw [HostLine.linesAfter, regValue, hread, getLsbD_statusWord_zero]

end Sys2Proof.Machine

/-! # The completions of the inverse transforms and of ADDROUNDKEY (spec/42_round_transforms.md R95, R99, R103, R106) -/

namespace Sys2Proof.Machine

/-- Settles O16: the block is `invMixColumns` of STATE, whose row r at each column is `invMixByte r` of that column. -/
theorem invMixColumnsCompletes : Obligations.InvMixColumnsCompletes := by
  unfold Obligations.InvMixColumnsCompletes
  intro s hturn
  refine ⟨invMixColumns s.core.block, ?columns, exec_core_blockEffect hturn rfl⟩
  case columns =>
    intro c hc a0 a1 a2 a3 h0 h1 h2 h3
    have row {r : Nat} (hr : r < 4) : (invMixColumns s.core.block)[4 * c + r]? = some (invMixByte r a0 a1 a2 a3) :=
      getElem?_mapColumns invMixByte s.core.block hc h0 h1 h2 h3 hr
    exact ⟨row (r := 0) (by decide), row (r := 1) (by decide), row (r := 2) (by decide), row (r := 3) (by decide)⟩

/-- Settles O12: the block is `invSubBytes` of STATE. -/
theorem invSubBytesCompletes : Obligations.InvSubBytesCompletes := by
  unfold Obligations.InvSubBytesCompletes
  intro s hturn
  refine ⟨invSubBytes s.core.block, ?bytes, exec_core_blockEffect hturn rfl⟩
  case bytes =>
    intro i
    have hbyte : byteAt (invSubBytes s.core.block) i = invSbox (byteAt s.core.block i) := by
      rw [byteAt_invSubBytes, if_pos i.isLt]
    rwa [byteAt_eq_getElem _ i.isLt, byteAt_eq_getElem _ i.isLt] at hbyte

/-- The byte InvShiftRows leaves in row r of column c (42_round_transforms.md R99). -/
theorem byteAt_invShiftRows_row_column (b : Block) {r c : Nat} (hr : r < 4) (hc : c < 4) :
    byteAt (invShiftRows b) (r + 4 * c) = byteAt b (r + 4 * ((c + 4 - r) % 4)) := by
  have hrow : (r + 4 * c) % 4 = r := by omega
  have hcolumn : (r + 4 * c) / 4 = c := by omega
  rw [byteAt_invShiftRows, if_pos (by omega), hrow, hcolumn]

/-- Settles O14: the block is `invShiftRows` of STATE. -/
theorem invShiftRowsCompletes : Obligations.InvShiftRowsCompletes := by
  unfold Obligations.InvShiftRowsCompletes
  intro s hturn
  refine ⟨invShiftRows s.core.block, ?bytes, exec_core_blockEffect hturn rfl⟩
  case bytes =>
    intro r c hr hc
    rw [getElem?_eq_some_byteAt _ (by omega), getElem?_eq_some_byteAt _ (by omega),
      byteAt_invShiftRows_row_column _ hr hc]

/-- Settles O17: the round key exists, so the block is `addRoundKey` of STATE. -/
theorem addRoundKeyCompletes : Obligations.AddRoundKeyCompletes := by
  unfold Obligations.AddRoundKeyCompletes
  intro s n hturn hnr hn
  refine ⟨addRoundKey s.core.block s.core.w n, ?bytes, ?completion⟩
  case bytes =>
    intro j hj x k hx hk
    rw [getElem?_eq_some_byteAt _ hj, byteAt_addRoundKey, if_pos hj, byteAt_of_getElem? hx, byteAt_of_getElem? hk]
  case completion =>
    have heffect : addRoundKeyEffect n s.core = .ok { s.core with block := addRoundKey s.core.block s.core.w n } :=
      if_pos ⟨hnr, hn⟩
    rw [exec_core _ hturn]
    exact complete_ok heffect

end Sys2Proof.Machine

/-! # The laws of the transforms (spec/42_round_transforms.md R95, R99, R103, R106, R108) -/

namespace Sys2Proof.Machine

/-- Settles O22: SBOX and INV_SBOX undo each other in every byte. -/
theorem subBytesAndInverseCancel : Obligations.SubBytesAndInverseCancel := by
  unfold Obligations.SubBytesAndInverseCancel
  exact fun s => ⟨invSubBytes_subBytes s, subBytes_invSubBytes s⟩

/-- A row turned four times is as it was (42_round_transforms.md R99). -/
theorem shiftRows_four_times (s : Block) : shiftRows (shiftRows (shiftRows (shiftRows s))) = s := by
  apply ext_byteAt
  intro i hi
  rw [byteAt_shiftRows, if_pos hi, byteAt_shiftRows, if_pos (by omega), byteAt_shiftRows, if_pos (by omega),
    byteAt_shiftRows, if_pos (by omega)]
  congr 1
  omega

/-- Settles O23: each row is turned back, and comes round after four turns. -/
theorem shiftRowsAndInverseCancel : Obligations.ShiftRowsAndInverseCancel := by
  unfold Obligations.ShiftRowsAndInverseCancel
  exact fun s => ⟨invShiftRows_shiftRows s, shiftRows_invShiftRows s, shiftRows_four_times s⟩

/-- Settles O24: InvMixColumns is MixColumns three times, and four times is the identity. -/
theorem mixColumnsAndInverseCancel : Obligations.MixColumnsAndInverseCancel := by
  unfold Obligations.MixColumnsAndInverseCancel
  exact fun s => ⟨invMixColumns_mixColumns s, mixColumns_invMixColumns s, mixColumns_four_times s⟩

/-- Settles O26: each byte is xored twice with the same byte of W. -/
theorem addRoundKeyIsItsOwnInverse : Obligations.AddRoundKeyIsItsOwnInverse := by
  unfold Obligations.AddRoundKeyIsItsOwnInverse
  exact addRoundKey_addRoundKey

/-! ### SubBytes works on bytes and ShiftRows moves them -/

theorem subBytes_shiftRows (s : Block) : subBytes (shiftRows s) = shiftRows (subBytes s) := by
  apply ext_byteAt
  intro i hi
  rw [byteAt_subBytes, if_pos hi, byteAt_shiftRows, if_pos hi, byteAt_shiftRows, if_pos hi, byteAt_subBytes,
    if_pos (by omega)]

theorem invSubBytes_invShiftRows (s : Block) : invSubBytes (invShiftRows s) = invShiftRows (invSubBytes s) := by
  apply ext_byteAt
  intro i hi
  rw [byteAt_invSubBytes, if_pos hi, byteAt_invShiftRows, if_pos hi, byteAt_invShiftRows, if_pos hi, byteAt_invSubBytes,
    if_pos (by omega)]

/-! ### MixColumns is linear -/

theorem column_xorBlock (s t : Block) {c r : Nat} (hc : c < 4) (hr : r < 4) :
    column (xorBlock s t) c r = column s c r ^^^ column t c r := by
  rw [column, byteAt_xorBlock, if_pos (by omega)]
  rfl

theorem mixByte_xor (r : Nat) (a0 a1 a2 a3 b0 b1 b2 b3 : Byte) :
    mixByte r (a0 ^^^ b0) (a1 ^^^ b1) (a2 ^^^ b2) (a3 ^^^ b3) = mixByte r a0 a1 a2 a3 ^^^ mixByte r b0 b1 b2 b3 := by
  unfold mixByte
  split <;> simp only [mul2_xor, mul3_xor] <;> ac_rfl

theorem invMixByte_xor (r : Nat) (a0 a1 a2 a3 b0 b1 b2 b3 : Byte) :
    invMixByte r (a0 ^^^ b0) (a1 ^^^ b1) (a2 ^^^ b2) (a3 ^^^ b3)
      = invMixByte r a0 a1 a2 a3 ^^^ invMixByte r b0 b1 b2 b3 := by
  unfold invMixByte
  split <;> simp only [mul9_xor, mul11_xor, mul13_xor, mul14_xor] <;> ac_rfl

/-- A map of columns is linear when what it does in each row is (42_round_transforms.md R108). -/
theorem mapColumns_xorBlock {f : Nat → Byte → Byte → Byte → Byte → Byte}
    (hf : ∀ r a0 a1 a2 a3 b0 b1 b2 b3, f r (a0 ^^^ b0) (a1 ^^^ b1) (a2 ^^^ b2) (a3 ^^^ b3)
      = f r a0 a1 a2 a3 ^^^ f r b0 b1 b2 b3) (s t : Block) :
    mapColumns f (xorBlock s t) = xorBlock (mapColumns f s) (mapColumns f t) := by
  have hcolumn (b : Block) {c r : Nat} (hc : c < 4) (hr : r < 4) :
      column (mapColumns f b) c r = f r (column b c 0) (column b c 1) (column b c 2) (column b c 3) :=
    byteAt_mapColumns f b hr hc
  apply ext_column
  intro c r hc hr
  rw [column_xorBlock _ _ hc hr, hcolumn _ hc hr, hcolumn _ hc hr, hcolumn _ hc hr, column_xorBlock _ _ hc (by decide),
    column_xorBlock _ _ hc (by decide), column_xorBlock _ _ hc (by decide), column_xorBlock _ _ hc (by decide), hf]

theorem getElem_xorBlock (s t : Block) (i : Fin 16) : (xorBlock s t)[i] = s[i] ^^^ t[i] := by
  have hbyte : byteAt (xorBlock s t) i = byteAt s i ^^^ byteAt t i := by rw [byteAt_xorBlock, if_pos i.isLt]
  rwa [byteAt_eq_getElem _ i.isLt, byteAt_eq_getElem _ i.isLt, byteAt_eq_getElem _ i.isLt] at hbyte

/-- Two maps of States that cancel both ways are bijections, each the inverse of the other. -/
theorem map_eq_iff_of_cancel {f g : Block → Block} (hgf : ∀ s, g (f s) = s) (hfg : ∀ s, f (g s) = s) (s b : Block) :
    f s = b ↔ s = g b :=
  (Equiv.eq_symm_apply (Equiv.mk f g hgf hfg)).symm

/-- Settles O25: SubBytes is the same in every byte, the two column maps are linear in every row, and each transform and
its inverse cancel. -/
theorem transformsCommuteAndMixIsLinear : Obligations.TransformsCommuteAndMixIsLinear := by
  unfold Obligations.TransformsCommuteAndMixIsLinear
  refine ⟨?commute, ?linear, ?bijective⟩
  case commute => exact fun s => ⟨subBytes_shiftRows s, invSubBytes_invShiftRows s⟩
  case linear =>
    exact fun s t => ⟨getElem_xorBlock s t, mapColumns_xorBlock mixByte_xor s t, mapColumns_xorBlock invMixByte_xor s t⟩
  case bijective =>
    exact fun s b => ⟨map_eq_iff_of_cancel invSubBytes_subBytes subBytes_invSubBytes s b,
      map_eq_iff_of_cancel invShiftRows_shiftRows shiftRows_invShiftRows s b,
      map_eq_iff_of_cancel invMixColumns_mixColumns mixColumns_invMixColumns s b⟩

end Sys2Proof.Machine

/-! # ENCRYPT then DECRYPT, as the machine runs them (spec/43_cipher_pipelines.md R111, R115, R116) -/

namespace Sys2Proof.Machine

/-- A run goes on from the state its first step answers. -/
theorem run_succ {M : Host.Core} {s t : M.State} (k : Nat) (h : M.step s = .next t) : M.run (k + 1) s = M.run k t := by
  simp [Host.Core.run, h]

/-- The machine after a CMD write of v and the command's completion: the registers are r, es is still to come. -/
def State.afterCommand (s : State) (v : Word) (es : List Event) (r : Regs) : State :=
  { s with
    core := r
    inputs := es
    turn := .core
    last := some { req := wr 0x008 v, rdata := none, error := false } }

/-- The registers of an idle core after a command was accepted and completed: STATE, DONE and ERR written
(60_exceptions.md R119, 43_cipher_pipelines.md R117). -/
theorem completedWith_markAccepted {i : Instr} {r : Regs} (hwf : r.wf = true) (hidle : r.busy = false) (b : Block) :
    (markAccepted i r).completedWith b = { r with block := b, done := true, err := 0 } := by
  simp [Regs.completedWith, markAccepted, pending_eq_none_of_wf hwf hidle, hidle]

/-- What STATE, DONE and ERR hold is no matter for an idle core's invariant, ERR being 0 (10_state.md R23). -/
theorem wf_of_idle_result {r : Regs} (hwf : r.wf = true) (hidle : r.busy = false) (b : Block) :
    Regs.wf { r with block := b, done := true, err := 0 } = true := by
  obtain ⟨hbusy, -, hkey, -⟩ := r.wf_iff.1 hwf
  exact (Regs.wf_iff _).2 ⟨hbusy, fun hb => absurd hb (by simp [hidle]), hkey, Nat.zero_le 4⟩

/-- A presented CMD write of a command that passes its check is answered, and the command accepted (60_exceptions.md R119). -/
theorem step_accepted {s : State} {v : Word} {i : Instr} (h : Presents s (wr 0x008 v)) (hv : decode v = .ok i)
    (hidle : s.core.busy = false) (hcheck : checkOf i s.core = none) :
    step s = .next (s.answered (wr 0x008 v) none (markAccepted i s.core)) := by
  rw [step_of_command h hv]
  exact exec_accepted i rfl hidle hcheck

/-- When the core moves with a pipeline command in flight, the pipeline's result is left in STATE
(43_cipher_pipelines.md R117). -/
theorem step_pipeline_completes {i : Instr} {f : Block → ExpandedKey → Nat → Block} {s : State} (h : CoreMoves s)
    (hpending : s.core.pending = some i) (heffect : effectOf i = pipelineEffect f) (hkv : s.core.kv = true)
    (hwf : s.core.wf = true) :
    step s = .next (((s.withInputs s.inputs.tail).withTurn .core).withCore
      (s.core.completedWith (f s.core.block s.core.w s.core.nr.toNat))) := by
  rw [step_of_coreMoves h hpending]
  exact exec_core_pipelineEffect (s := (s.withInputs s.inputs.tail).withTurn .core) rfl hkv hwf heffect

/-- A pipeline command written to CMD of an idle core that holds a key, and completed in the next step, leaves the
pipeline's result in STATE (43_cipher_pipelines.md R115, R116). -/
theorem run_pipeline {i : Instr} {f : Block → ExpandedKey → Nat → Block} {v : Word} {s : State} {es : List Event} (k : Nat)
    (hv : decode v = .ok i) (hcheck : checkOf i = checkKeyHeld) (heffect : effectOf i = pipelineEffect f)
    (hkv : s.core.kv = true) (hwf : s.core.wf = true) (hidle : s.core.busy = false) (hrst : s.rst = false)
    (hin : s.inputs = .host (wr 0x008 v) :: .complete :: es) :
    core.run (k + 2) s = core.run k (s.afterCommand v es
      { s.core with block := f s.core.block s.core.w s.core.nr.toNat, done := true, err := 0 }) := by
  have hpresents : Presents s (wr 0x008 v) := ⟨by rw [hin]; rfl, hrst⟩
  have hpass : checkOf i s.core = none := by rw [hcheck, checkKeyHeld_eq_none_iff, hkv]
  have hmoves : CoreMoves (s.answered (wr 0x008 v) none (markAccepted i s.core)) :=
    ⟨rfl, hrst, .inr (by rw [State.answered, hin]; rfl)⟩
  have hissue := step_accepted hpresents hv hidle hpass
  have hcomplete := step_pipeline_completes hmoves rfl heffect hkv (wf_markAccepted hwf i)
  rw [run_succ (M := core) _ hissue, run_succ (M := core) _ hcomplete, ← completedWith_markAccepted hwf hidle]
  simp only [State.answered, hin, List.tail_cons]
  rfl

/-- Settles O28: each command runs its pipeline, and the second undoes the first. -/
theorem encryptThenDecryptRestoresTheState : Obligations.EncryptThenDecryptRestoresTheState := by
  unfold Obligations.EncryptThenDecryptRestoresTheState
  intro s es hkv hwf hidle hrst hin
  obtain ⟨hpos, -⟩ := nr_bounds_of_wf hwf hkv
  have hencrypt := run_pipeline 2 (i := .encrypt) rfl rfl rfl hkv hwf hidle hrst hin
  generalize hc : cipher s.core.block s.core.w s.core.nr.toNat = c at hencrypt
  have hdecrypt := run_pipeline 0 (i := .decrypt) (s := s.afterCommand 0x2 (.host (wr 0x008 0x3) :: .complete :: es)
    { s.core with block := c, done := true, err := 0 }) rfl rfl rfl hkv (wf_of_idle_result hwf hidle c) hidle hrst rfl
  have hblock : invCipher c s.core.w s.core.nr.toNat = s.core.block := hc ▸ invCipher_cipher _ _ hpos
  calc core.run 4 s = _ := hencrypt
    _ = _ := hdecrypt
    _ = _ := by
      simp only [State.afterCommand, hblock]
      rfl

end Sys2Proof.Machine

/-! # LDKEY and LDSTATE (spec/30_encoding.md R75) -/

namespace Sys2Proof.Machine

/-! ### A byte register after consecutive words are written -/

/-- The whole words of a byte string written from word m upwards (20_memory.md R58). -/
def setWords {n : Nat} : Vector Byte n → Nat → List Byte → Vector Byte n
  | v, m, b0 :: b1 :: b2 :: b3 :: bs => setWords (setWordAt v m (le32 b0 b1 b2 b3)) (m + 1) bs
  | v, _, _ => v

/-- The lanes of a `LE32` value, as a list (20_memory.md R52). -/
theorem getElem?_bytes_of_le32 (b0 b1 b2 b3 : Byte) {d : Nat} (hd : d < 4) :
    [b0, b1, b2, b3][d]? = some ((le32 b0 b1 b2 b3).extractLsb' (8 * d) 8) := by
  have hlane := lane_le32_of_lt (fun k => [b0, b1, b2, b3].getD k 0) hd
  interval_cases d <;> exact congrArg some hlane.symm

/-- A string of 4(k+1) bytes is a word and a string of 4k. -/
theorem exists_word_of_length {bs : List Byte} {k : Nat} (h : bs.length = 4 * (k + 1)) :
    ∃ b0 b1 b2 b3 cs, bs = b0 :: b1 :: b2 :: b3 :: cs ∧ cs.length = 4 * k := by
  match bs, h with
  | b0 :: b1 :: b2 :: b3 :: cs, h => exact ⟨b0, b1, b2, b3, cs, rfl, by simpa [Nat.mul_succ] using h⟩
  | [], h | [_], h | [_, _], h | [_, _, _], h =>
    simp only [List.length_cons, List.length_nil] at h
    omega

/-- The string's bytes stand in the register, in order, and every other byte is as it was (20_memory.md R52, R58). -/
theorem getElem?_setWords {n : Nat} {k : Nat} {bs : List Byte} (hlen : bs.length = 4 * k) (v : Vector Byte n) (m : Nat)
    {j : Nat} (hj : j < n) :
    (setWords v m bs)[j]? = if 4 * m ≤ j ∧ j < 4 * m + bs.length then bs[j - 4 * m]? else v[j]? := by
  induction k generalizing bs v m with
  | zero =>
    obtain rfl : bs = [] := List.eq_nil_of_length_eq_zero hlen
    rw [setWords, if_neg (by simp)]
    simp
  | succ k ih =>
    obtain ⟨b0, b1, b2, b3, cs, rfl, hcs⟩ := exists_word_of_length hlen
    rw [setWords, ih hcs, getElem?_setWordAt _ _ _ hj]
    rcases Nat.lt_or_ge j (4 * m) with hbefore | hfrom
    · rw [if_neg (by omega), if_neg (by omega), if_neg (by omega)]
    · obtain ⟨d, rfl⟩ : ∃ d, j = 4 * m + d := ⟨j - 4 * m, by omega⟩
      rw [Nat.add_sub_cancel_left]
      rcases Nat.lt_or_ge d 4 with hword | hrest
      · have hindex : (4 * m + d) / 4 = m := by omega
        have hlane : (4 * m + d) % 4 = d := by omega
        rw [if_neg (by omega), if_pos hindex, hlane, if_pos (by simp; omega), ← getElem?_bytes_of_le32 b0 b1 b2 b3 hword]
        exact (List.getElem?_append_left (l₁ := [b0, b1, b2, b3]) (l₂ := cs) hword).symm
      · obtain ⟨e, rfl⟩ : ∃ e, d = e + 4 := ⟨d - 4, by omega⟩
        have hindex : (4 * m + (e + 4)) / 4 ≠ m := by omega
        have hrestIndex : 4 * m + (e + 4) - 4 * (m + 1) = e := by omega
        have hin : (4 * (m + 1) ≤ 4 * m + (e + 4) ∧ 4 * m + (e + 4) < 4 * (m + 1) + cs.length) ↔
            4 * m ≤ 4 * m + (e + 4) ∧ 4 * m + (e + 4) < 4 * m + (b0 :: b1 :: b2 :: b3 :: cs).length := by
          simp only [List.length_cons]
          omega
        rw [if_neg hindex, hrestIndex]
        simp only [hin, List.getElem?_cons_succ]

/-! ### The expansion, run transaction by transaction -/

/-- What no write to a register moves: the schedule, rst, the fault bit and the draw counter. -/
def SameOutside (s t : State) : Prop :=
  t.inputs = s.inputs ∧ t.rst = s.rst ∧ t.hostFault = s.hostFault ∧ t.draws = s.draws

theorem SameOutside.rst_eq {s t : State} (h : SameOutside s t) : t.rst = s.rst := by
  obtain ⟨-, hrst, -⟩ := h
  exact hrst

theorem SameOutside.trans {s t u : State} (h : SameOutside s t) (h' : SameOutside t u) : SameOutside s u := by
  obtain ⟨hinputs, hrst, hfault, hdraws⟩ := h
  obtain ⟨hinputs', hrst', hfault', hdraws'⟩ := h'
  exact ⟨hinputs'.trans hinputs, hrst'.trans hrst, hfault'.trans hfault, hdraws'.trans hdraws⟩

/-- The lines that load a byte register, run on a core that takes each word into it, load all words. `put v` are the
core's registers when that register holds v. -/
theorem runProgram_loadLines {n base : Nat} {put : Vector Byte n → Regs}
    (hwrite : ∀ (m : Nat) (x : Word) (v : Vector Byte n) (s : State), 4 * m + 3 < n → s.rst = false → s.core = put v →
      ∃ t, hostStep (wr (BitVec.ofNat 9 (base + 4 * m)) x) s = .next t ∧ t.core = put (setWordAt v m x) ∧ SameOutside s t)
    {k : Nat} {bs : List Byte} (hlen : bs.length = 4 * k) {m : Nat} (hfit : 4 * m + bs.length ≤ n) {v : Vector Byte n}
    {s : State} (hrst : s.rst = false) (hcore : s.core = put v) :
    ∃ t, runProgram (List.replicate k .host) (loadLines (BitVec.ofNat 9 (base + 4 * m)) bs) s = .next t
      ∧ t.core = put (setWords v m bs) ∧ SameOutside s t := by
  induction k generalizing bs m v s with
  | zero =>
    obtain rfl : bs = [] := List.eq_nil_of_length_eq_zero hlen
    exact ⟨s, rfl, hcore, rfl, rfl, rfl, rfl⟩
  | succ k ih =>
    obtain ⟨b0, b1, b2, b3, cs, rfl, hcs⟩ := exists_word_of_length hlen
    simp only [List.length_cons] at hfit
    obtain ⟨t, hstep, htcore, hframe⟩ := hwrite m (le32 b0 b1 b2 b3) v (s.withTurn .host) (by omega) hrst hcore
    obtain ⟨u, hrun, hucore, htu⟩ := ih hcs (m := m + 1) (by omega) (hframe.rst_eq.trans hrst) htcore
    refine ⟨u, ?_, hucore, hframe.trans htu⟩
    have hoff : BitVec.ofNat 9 (base + 4 * m) + 4 = BitVec.ofNat 9 (base + 4 * (m + 1)) :=
      (BitVec.ofNat_add (base + 4 * m) 4).symm
    rw [List.replicate_succ, loadLines, hoff]
    exact (runProgram_line (l := .transaction _) hstep).trans hrun

/-- An idle core takes a KEY write into KEY (20_memory.md R58). -/
theorem hostStep_key_put {r : Regs} (hidle : r.busy = false) (m : Nat) (x : Word) (v : KeyBytes) (s : State)
    (hm : 4 * m + 3 < 32) (hrst : s.rst = false) (hcore : s.core = { r with key := v }) :
    ∃ t, hostStep (wr (BitVec.ofNat 9 (0x020 + 4 * m)) x) s = .next t ∧ t.core = { r with key := setWordAt v m x }
      ∧ SameOutside s t := by
  refine ⟨_, hostStep_writeKey (by omega) x (by rw [hcore]; exact hidle) hrst, ?_, rfl, rfl, rfl, rfl⟩
  rw [State.withCore_core, hcore]
  rfl

/-- An idle core takes a STATE write into STATE (20_memory.md R58). -/
theorem hostStep_state_put {r : Regs} (hidle : r.busy = false) (m : Nat) (x : Word) (v : Block) (s : State)
    (hm : 4 * m + 3 < 16) (hrst : s.rst = false) (hcore : s.core = { r with block := v }) :
    ∃ t, hostStep (wr (BitVec.ofNat 9 (0x010 + 4 * m)) x) s = .next t ∧ t.core = { r with block := setWordAt v m x }
      ∧ SameOutside s t := by
  refine ⟨_, hostStep_writeState (by omega) x (by rw [hcore]; exact hidle) hrst, ?_, rfl, rfl, rfl, rfl⟩
  rw [State.withCore_core, hcore]
  rfl

/-- Settles O59: each transaction of the expansion writes one word of KEY or of STATE. -/
theorem loadPseudoInstructionsLoadTheirBytes : Obligations.LoadPseudoInstructionsLoadTheirBytes := by
  unfold Obligations.LoadPseudoInstructionsLoadTheirBytes
  intro s bs hidle hrst
  constructor
  · intro hlen
    obtain ⟨hwords, hfit⟩ : bs.length = 4 * (bs.length / 4) ∧ bs.length ≤ 32 := by
      simp only [List.mem_cons, List.not_mem_nil, or_false] at hlen
      omega
    obtain ⟨t, hrun, hcore, hframe⟩ := runProgram_loadLines (put := fun v => { s.core with key := v })
      (hostStep_key_put hidle) hwords (m := 0) (by omega) hrst rfl
    refine ⟨t, setWords s.core.key 0 bs, hrun, hcore, fun j hj => ?_, hframe⟩
    simpa using getElem?_setWords hwords s.core.key 0 hj
  · intro hlen
    obtain ⟨t, hrun, hcore, hframe⟩ := runProgram_loadLines (put := fun v => { s.core with block := v })
      (hostStep_state_put hidle) (k := 4) hlen (m := 0) (by omega) hrst rfl
    refine ⟨t, setWords s.core.block 0 bs, hrun, hcore, fun j hj => ?_, hframe⟩
    simpa [hlen, hj] using getElem?_setWords (k := 4) hlen s.core.block 0 hj

end Sys2Proof.Machine
